-- ==== Sys2Proof/Word.lean ====
section
/-! DEFINITION. The data words of the QOI opcode decoder: a byte and a pixel of four 8-bit channels (spec 00_scope.md R7, R8; 10_state.md R21). -/

namespace Sys2Proof

/-- One byte; bit 7 is the most significant (R7). -/
abbrev Byte := BitVec 8

/-- A pixel, always the 4-tuple of 8-bit channels (R21). -/
structure Pixel where
  r : Byte
  g : Byte
  b : Byte
  a : Byte
  deriving DecidableEq, Repr

/-- The pixel (0,0,0,0) that START and reset write into every cache slot (R23). -/
def Pixel.zero : Pixel := ⟨0#8, 0#8, 0#8, 0#8⟩

end Sys2Proof
end

