-- ==== Sys2Proof/Syntax.lean ====
section
/-! DEFINITION. The QOI opcode set: one constructor per row of spec/opcode_table.json, with the operand fields of spec 30_encoding.md R73. -/

namespace Sys2Proof

/-- An opcode with its operand fields as the encoding holds them; the biases of R75 to R77 are taken off in Machine/Operands.lean. -/
inductive Instr where
  /-- QOI_OP_RGB: new red, green and blue (R130). -/
  | rgb (r g b : Byte)
  /-- QOI_OP_RGBA: new red, green, blue and alpha (R131). -/
  | rgba (r g b a : Byte)
  /-- QOI_OP_INDEX: a cache slot number (R74, R132). -/
  | index (i : BitVec 6)
  /-- QOI_OP_DIFF: three 2-bit fields, each a delta plus 2 (R75, R133). -/
  | diff (dr dg db : BitVec 2)
  /-- QOI_OP_LUMA: green delta plus 32, then red and blue deltas less green's plus 8 (R76, R134). -/
  | luma (dg : BitVec 6) (drg dbg : BitVec 4)
  /-- QOI_OP_RUN: the run length less 1 (R77, R135). -/
  | run (f : BitVec 6)
  deriving DecidableEq, Repr

end Sys2Proof
end

