-- ==== Sys2Proof/WellFormed.lean ====
section
/-! DEFINITION. Which opcode terms the encoding admits (spec 30_encoding.md R79). -/

namespace Sys2Proof

/-- Every field value is legal (R82) but one pair: run fields 62 and 63 are the tags of QOI_OP_RGB and QOI_OP_RGBA (R79). -/
def Instr.wf : Instr → Bool
  | .rgb _ _ _ => true
  | .rgba _ _ _ _ => true
  | .index _ => true
  | .diff _ _ _ => true
  | .luma _ _ _ => true
  | .run f => decide (f.toNat ≤ 61)

end Sys2Proof
end

