-- ==== Sys2Proof/Decode.lean ====
section
/-! DEFINITION. Decoding of the opcode stream, the encoder written from the same formats (spec 30_encoding.md), and the listing syntax of R83. -/

namespace Sys2Proof

/-- The six classes of R72. -/
inductive OpClass where
  | rgb
  | rgba
  | index
  | diff
  | luma
  | run
  deriving DecidableEq, Repr

/-- `t[7:6]`, the top 2 bits of a tag (R7, R72). -/
def tagTop (t : Byte) : BitVec 2 := t.extractLsb' 6 2

/-- `t[5:0]`, the low 6 bits of a tag (R74, R76, R77). -/
def tagLow (t : Byte) : BitVec 6 := t.extractLsb' 0 6

/-- The priority test of R72, in its order. -/
def decodeTag (t : Byte) : OpClass :=
  if t = 0xFE#8 then .rgb
  else if t = 0xFF#8 then .rgba
  else if tagTop t = 0b00#2 then .index
  else if tagTop t = 0b01#2 then .diff
  else if tagTop t = 0b10#2 then .luma
  else .run

/-- `op_len`: the length of an opcode in bytes, from its tag alone (R80). -/
def opLen (t : Byte) : Nat :=
  if t = 0xFE#8 then 4
  else if t = 0xFF#8 then 5
  else if tagTop t = 0b10#2 then 2
  else 1

/-- Why bytes are no opcode. No encoding is illegal (R82): bytes can only run out. -/
inductive DecodeReject where
  /-- There is no tag byte. -/
  | noTag
  /-- The bytes end inside an opcode of this class. -/
  | cutShort (c : OpClass)
  deriving DecidableEq, Repr

/-- What the decoder reads from a list of bytes: an opcode and the bytes after it, or why there is none. -/
inductive Decoded where
  | accepted (i : Instr) (rest : List Byte)
  | rejected (why : DecodeReject)
  deriving DecidableEq, Repr

/-- QOI_OP_RGB's data bytes, in the order r, g, b (R71, R78). -/
def decodeRgb : List Byte → Decoded
  | r :: g :: b :: rest => .accepted (.rgb r g b) rest
  | _ => .rejected (.cutShort .rgb)

/-- QOI_OP_RGBA's data bytes, in the order r, g, b, a (R71, R78). -/
def decodeRgba : List Byte → Decoded
  | r :: g :: b :: a :: rest => .accepted (.rgba r g b a) rest
  | _ => .rejected (.cutShort .rgba)

/-- QOI_OP_LUMA: green's field from the tag, red's from the further byte's high nibble, blue's from its low nibble (R76). -/
def decodeLuma (t : Byte) : List Byte → Decoded
  | d :: rest => .accepted (.luma (tagLow t) (d.extractLsb' 4 4) (d.extractLsb' 0 4)) rest
  | [] => .rejected (.cutShort .luma)

/-- QOI_OP_DIFF's fields, bits 5-4, 3-2 and 1-0 (R73, R75). -/
def diffOf (t : Byte) : Instr :=
  .diff (t.extractLsb' 4 2) (t.extractLsb' 2 2) (t.extractLsb' 0 2)

/-- The decoder, total on any list of bytes: the tag selects the class (R72), the data bytes follow by position (R71). -/
def decode : List Byte → Decoded
  | [] => .rejected .noTag
  | t :: ds =>
    match decodeTag t with
    | .rgb => decodeRgb ds
    | .rgba => decodeRgba ds
    | .index => .accepted (.index (tagLow t)) ds
    | .diff => .accepted (diffOf t) ds
    | .luma => decodeLuma t ds
    | .run => .accepted (.run (tagLow t)) ds

/-- The bytes of an opcode, from the formats of R73. -/
def encode : Instr → List Byte
  | .rgb r g b => [0xFE#8, r, g, b]
  | .rgba r g b a => [0xFF#8, r, g, b, a]
  | .index i => [0b00#2 ++ i]
  | .diff dr dg db => [0b01#2 ++ dr ++ dg ++ db]
  | .luma dg drg dbg => [0b10#2 ++ dg, drg ++ dbg]
  | .run f => [0b11#2 ++ f]

/-- The class of an opcode: its row of spec/opcode_table.json. -/
def Instr.opClass : Instr → OpClass
  | .rgb _ _ _ => .rgb
  | .rgba _ _ _ _ => .rgba
  | .index _ => .index
  | .diff _ _ _ => .diff
  | .luma _ _ _ => .luma
  | .run _ => .run

/-- The length of an opcode in bytes (R73, R80). -/
def Instr.size : Instr → Nat
  | .rgb _ _ _ => 4
  | .rgba _ _ _ _ => 5
  | .index _ => 1
  | .diff _ _ _ => 1
  | .luma _ _ _ => 2
  | .run _ => 1

/-- The five bytes (the longest opcode) that hold the low `nbits` bits of `w`, first byte least significant, zeros above:
the numbering of spec/opcode_table.json laid out in stream order. -/
def tableBytes (nbits w : Nat) : List Byte :=
  let v := w % 2 ^ nbits
  [BitVec.ofNat 8 v, BitVec.ofNat 8 (v / 2 ^ 8), BitVec.ofNat 8 (v / 2 ^ 16), BitVec.ofNat 8 (v / 2 ^ 24),
    BitVec.ofNat 8 (v / 2 ^ 32)]

/-- The opcode the decoder reads from a table word. -/
def decodeTableWord (nbits w : Nat) : Option Instr :=
  match decode (tableBytes nbits w) with
  | .accepted i _ => some i
  | .rejected _ => none

/-! ### The listing syntax (R83 to R85) -/

/-- The four bytes of a u32, most significant first (R53, `be32` of R8 read backwards). -/
def bytesOfWord (w : BitVec 32) : List Byte :=
  [w.extractLsb' 24 8, w.extractLsb' 16 8, w.extractLsb' 8 8, w.extractLsb' 0 8]

/-- The magic bytes "qoif" (R81). -/
def magic : List Byte := [0x71#8, 0x6F#8, 0x69#8, 0x66#8]

/-- The 14 header bytes `HEADER w, h, c, cs` (R81, R83). -/
def headerBytes (w h : BitVec 32) (c cs : Byte) : List Byte :=
  magic ++ bytesOfWord w ++ bytesOfWord h ++ [c, cs]

/-- One line of a listing, with its operands as R83 writes them: deltas as signed numbers, a run as its length. -/
inductive Line where
  | header (w h : BitVec 32) (c cs : Byte)
  | rgb (r g b : Byte)
  | rgba (r g b a : Byte)
  | index (i : Nat)
  | diff (dr dg db : Int)
  | luma (dg drg dbg : Int)
  | run (n : Nat)
  | byte (v : Byte)
  deriving DecidableEq, Repr

/-- A signed delta as a biased field of `w` bits, where it fits (R75, R76, R85). -/
def biasedField (w : Nat) (bias : Nat) (d : Int) : Option (BitVec w) :=
  if 0 ≤ d + bias ∧ d + bias < 2 ^ w then some (BitVec.ofInt w (d + bias)) else none

/-- The opcode of a listing line; none where no opcode has those operands (R84, R85) or the line is no opcode. -/
def Line.instr? : Line → Option Instr
  | .header _ _ _ _ => none
  | .rgb r g b => some (.rgb r g b)
  | .rgba r g b a => some (.rgba r g b a)
  | .index i => if i ≤ 63 then some (.index (BitVec.ofNat 6 i)) else none
  | .diff dr dg db => do
    let r ← biasedField 2 2 dr
    let g ← biasedField 2 2 dg
    let b ← biasedField 2 2 db
    return .diff r g b
  | .luma dg drg dbg => do
    let g ← biasedField 6 32 dg
    let r ← biasedField 4 8 drg
    let b ← biasedField 4 8 dbg
    return .luma g r b
  | .run n => if 1 ≤ n ∧ n ≤ 62 then some (.run (BitVec.ofNat 6 (n - 1))) else none
  | .byte _ => none

/-- The bytes of a listing line (R83). -/
def Line.bytes? : Line → Option (List Byte)
  | .header w h c cs => some (headerBytes w h c cs)
  | .byte v => some [v]
  | l => l.instr?.map encode

/-- The bytes of a whole listing, none if a line is no line of R83. -/
def assemble : List Line → Option (List Byte)
  | [] => some []
  | l :: ls => do
    let b ← l.bytes?
    let bs ← assemble ls
    return b ++ bs

/-- A run of any length as run lines of at most 62 (R84): the first argument bounds how many lines. -/
def runLines : Nat → Nat → List Line
  | 0, _ => []
  | _ + 1, 0 => []
  | k + 1, n + 1 => if n + 1 ≤ 62 then [.run (n + 1)] else .run 62 :: runLines k (n + 1 - 62)

end Sys2Proof
end

