-- ==== Sys2Proof/Config.lean ====
section
/-! DEFINITION. What one implementation fixes (spec 00_scope.md R6) and the free values of the model, constants without a body. -/

namespace Sys2Proof

/-- The parameters of R6 that change what the block does. REG_MAP is left out: the control fields are named (log 7). -/
structure Config where
  /-- OUT_CAPACITY, the number of bytes OUT holds. OPEN (R6). -/
  outCapacity : Nat
  /-- TRAILER_LEN, the bytes at the end of the input that are no opcodes (R6, R112). -/
  trailerLen : Nat
  /-- INIT_PIXEL, the previous pixel before the first opcode (R6, R90). -/
  initPixel : Pixel
  deriving DecidableEq, Repr

/-- The ranges R6 gives the parameters: OUT_CAPACITY below 2^64, TRAILER_LEN 0 or 8. -/
def Config.wf (c : Config) : Bool :=
  decide (c.outCapacity < 2 ^ 64) && (decide (c.trailerLen = 0) || decide (c.trailerLen = 8))

/-- The parameter values State.reset stands on: R6's defaults, and 2^20 bytes of OUT.
DESIGN CHOICE (unsafe, log 6): R6 leaves OUT_CAPACITY open. -/
def Config.standard : Config where
  outCapacity := 1048576
  trailerLen := 0
  initPixel := ⟨0#8, 0#8, 0#8, 255#8⟩

/-- FREE VALUE (safe, log 2): the byte OUT holds at an offset nothing has written since the block's n-th reset (R170: any value).
First argument n, second the offset. -/
opaque Config.outAfterReset : Nat → Nat → Byte

/-- FREE VALUE (safe, log 3): the byte IN holds at an offset the host never wrote. -/
opaque Config.inUnwritten : Nat → Byte

/-- FREE VALUE (safe, log 4): what the host's n-th read of OUT while BUSY returns (R61: an unspecified value). -/
opaque Config.outWhileBusy : Nat → Byte

end Sys2Proof
end

