-- ==== Sys2Proof/Machine/State.lean ====
section
/-! DEFINITION. The state of the block as plain data (spec 10_state.md), the host's moves, the reasons a step stops, and reset. -/

namespace Sys2Proof.Machine

/-- The decoder's control state (R27). -/
inductive Phase where
  | idle
  | header
  | pixels
  | done
  | error
  deriving DecidableEq, Repr

/-- The error kinds of R150; their codes are `ErrKind.code`. -/
inductive ErrKind where
  | noError
  | formatError
  | allocationError
  | outOfBoundsRead
  | channelsError
  deriving DecidableEq, Repr

/-- The image descriptor: DESC_WIDTH, DESC_HEIGHT, DESC_CHANNELS and DESC_COLORSPACE (R33 to R36). -/
structure Descriptor where
  width : BitVec 32
  height : BitVec 32
  channels : Byte
  colorspace : Byte
  deriving DecidableEq, Repr

/-- The descriptor after reset and after START, every field 0 (R90, R170). -/
def Descriptor.cleared : Descriptor := ⟨0#32, 0#32, 0#8, 0#8⟩

/-- The host-visible fields of 10_state.md section 3, by name; their addresses (REG_MAP) have no effect (log 7). -/
inductive HostReg where
  | ctrlStart
  | inLength
  | statusState
  | statusErr
  | descWidth
  | descHeight
  | descChannels
  | descColorspace
  | obsPos
  | obsCursor
  deriving DecidableEq, Repr

/-- What the host does next (R20, R172). A host move is one step of the machine (log 1). -/
inductive HostMove where
  /-- The host writes a control field (R29 to R37). -/
  | writeReg (r : HostReg) (v : BitVec 64)
  /-- The host reads a control field. -/
  | readReg (r : HostReg)
  /-- The host writes a byte of IN (R50, R172). -/
  | writeIn (a : BitVec 64) (b : Byte)
  /-- The host writes a byte of OUT (R174). -/
  | writeOut (a : BitVec 64) (b : Byte)
  /-- The host reads a byte of OUT (R61, R172). -/
  | readOut (a : BitVec 64)
  /-- The host asserts reset (R170). -/
  | reset
  /-- The host does nothing: the decoder takes its next step. -/
  | yield
  deriving DecidableEq, Repr

/-- The model's own fields: the host's moves to come and the counters that select free values. None is the spec's. -/
structure HostPort where
  /-- The host's moves still to come, oldest first; when there is none the decoder takes every step (log 1). -/
  pending : List HostMove
  /-- The value the host's last read returned, zero-extended (log 8). -/
  returned : BitVec 64
  /-- How often the block was reset; selects OUT's free contents (log 2). -/
  outEpoch : Nat
  /-- How often the host read OUT while BUSY; selects the next free value (log 4). -/
  busyReads : Nat
  deriving DecidableEq, Repr

/-- A byte memory: the bytes written so far, by strictly rising offset. An unlisted offset holds no written byte;
what it reads as is `State.inByte` and `State.outByte` (log 2, log 3). -/
abbrev Memory := List Host.Cell

/-- The canonical form of a memory: offsets strictly rising. -/
abbrev Memory.wf (m : Memory) : Prop := m.Pairwise (fun c d => c.1 < d.1)

/-- Everything the spec gives the block, its parameters, and the model's own host port. -/
structure State where
  /-- The current pixel register (R21). -/
  px : Pixel
  /-- The run counter (R22). -/
  run : BitVec 6
  /-- The colour cache (R23). -/
  cache : Vector Pixel 64
  /-- The cursor, the block's program counter (R24). -/
  cur : BitVec 64
  /-- The pixel position counter (R25). -/
  pos : BitVec 64
  /-- The latched input length (R26). -/
  len : BitVec 64
  /-- The control state (R27). -/
  phase : Phase
  /-- IN_LENGTH (R30). -/
  inLength : BitVec 64
  /-- STATUS.ERR (R32). -/
  err : ErrKind
  /-- The DESC fields (R33 to R36). -/
  desc : Descriptor
  /-- IN, the input memory (R50). -/
  inMem : Memory
  /-- OUT, the output memory (R51). -/
  outMem : Memory
  /-- The parameters of R6; no step changes them. -/
  cfg : Config
  /-- The model's own fields. -/
  port : HostPort
  deriving DecidableEq, Repr

/-- Why a step stops with a fault. -/
inductive Fault where
  /-- An access to an OUT offset at or above OUT_CAPACITY, which does not exist (R51). Raised by a host access to OUT, and by
  the output write of a position that does not fit, which R59 says no decode reaches. Safe (log 12, log 13). -/
  | outOffsetAbsent
  deriving DecidableEq, Repr

/-- Why a step is refused. -/
inductive Refusal where
  /-- An instruction with no meaning yet; no arm of this model raises it. Safe. -/
  | notModelled (mnemonic : String)
  /-- The host writes IN below `len` while BUSY, a move R173 gives no host (93_implementation_defined.md I6, log 13). Raised by
  `hostMove`. Unsafe for a host that does it, as the spec says of its own rule. -/
  | hostWritesInputWhileBusy
  /-- The host writes OUT while BUSY, a move R174 gives no host (I6, log 13). Raised by `hostMove`. Unsafe for a host that does it. -/
  | hostWritesOutputWhileBusy
  deriving DecidableEq, Repr

/-- The three outcomes of a step of this machine. -/
abbrev StepResult := Host.Outcome State Fault Refusal

/-- The block right after reset, for any values of its parameters (R170): nothing is in IN or OUT, no host move is pending. -/
def State.resetWith (c : Config) : State where
  px := c.initPixel
  run := 0#6
  cache := Vector.replicate 64 Pixel.zero
  cur := 0#64
  pos := 0#64
  len := 0#64
  phase := .idle
  inLength := 0#64
  err := .noError
  desc := Descriptor.cleared
  inMem := []
  outMem := []
  cfg := c
  port := ⟨[], 0#64, 0, 0⟩

/-- The block right after reset, with the parameter values of `Config.standard` (R6, R170; log 6). -/
def State.reset : State := State.resetWith Config.standard

end Sys2Proof.Machine
end

