-- ==== Sys2Proof/Machine/Flags.lean ====
section
/-! DEFINITION. The status bits. The block has no flags or condition codes (spec 10_state.md R38); STATUS.STATE and STATUS.ERR are all it shows (R31, R32). -/

namespace Sys2Proof.Machine

/-- The code STATUS.ERR holds for an error kind (R32, R150). -/
def ErrKind.code : ErrKind → BitVec 3
  | .noError => 0#3
  | .formatError => 1#3
  | .allocationError => 2#3
  | .outOfBoundsRead => 3#3
  | .channelsError => 4#3

/-- STATUS.STATE of a control state: 0 IDLE, 1 BUSY, 2 DONE, 3 ERROR (R31). -/
def Phase.status : Phase → BitVec 2
  | .idle => 0#2
  | .header => 1#2
  | .pixels => 1#2
  | .done => 2#2
  | .error => 3#2

/-- STATUS.STATE reads BUSY: a decode is running (R31). -/
def Phase.busy : Phase → Bool
  | .idle => false
  | .header => true
  | .pixels => true
  | .done => false
  | .error => false

/-- STATUS.STATE (R31). -/
def State.statusState (s : State) : BitVec 2 := s.phase.status

/-- STATUS.STATE is BUSY. -/
def State.busy (s : State) : Bool := s.phase.busy

end Sys2Proof.Machine
end

