-- ==== Sys2Proof/Machine/Operands.lean ====
section
/-! DEFINITION. Operands and channel arithmetic: the biases of the delta fields, addition modulo 256, the colour hash and big-endian words (spec 00_scope.md R8, R10; 30_encoding.md R74 to R78; 42_opcodes.md R136). -/

namespace Sys2Proof.Machine

/-- A QOI_OP_DIFF delta: the unsigned 2-bit field minus 2, in -2..1 (R75). -/
def diffDelta (f : BitVec 2) : Int := f.toNat - 2

/-- QOI_OP_LUMA's green delta: the unsigned 6-bit field minus 32, in -32..31 (R76). -/
def lumaGreen (f : BitVec 6) : Int := f.toNat - 32

/-- QOI_OP_LUMA's red or blue delta: the green delta plus the nibble minus 8, in -40..38 (R76). -/
def lumaSide (dg : BitVec 6) (f : BitVec 4) : Int := lumaGreen dg + (f.toNat - 8)

/-- `wrap8(c + d)`: a channel plus an exact delta, modulo 256 (R8, R136). -/
def addDelta (c : Byte) (d : Int) : Byte := BitVec.ofInt 8 (c.toNat + d)

/-- Each colour channel plus its delta; alpha unchanged (R133, R134). -/
def addDeltas (p : Pixel) (dr dg db : Int) : Pixel :=
  ⟨addDelta p.r dr, addDelta p.g dg, addDelta p.b db, p.a⟩

/-- `hash(p) = (3r + 5g + 7b + 11a) mod 64`, a cache slot (R10). -/
def pixelHash (p : Pixel) : Fin 64 :=
  Fin.ofNat 64 (p.r.toNat * 3 + p.g.toNat * 5 + p.b.toNat * 7 + p.a.toNat * 11)

/-- `be32`: four bytes as a big-endian unsigned word (R8, R53). -/
def be32 (b0 b1 b2 b3 : Byte) : BitVec 32 := b0 ++ b1 ++ b2 ++ b3

/-- The bytes a pixel leaves in OUT: r, g, b, and a only if there are 4 channels (R117). No decode has another count (R99, log 12). -/
def outBytes (channels : Nat) (p : Pixel) : List Byte := [p.r, p.g, p.b, p.a].take channels

end Sys2Proof.Machine
end

