-- ==== Sys2Proof/Machine/Ops.lean ====
section
/-! DEFINITION. The named operations over memory and registers: byte memories, reads of IN and OUT, the chunk region, the error entry, the cache insert, the output write and the position advance (spec 20_memory.md, 41_pixel_step.md, 60_exceptions.md). -/

namespace Sys2Proof.Machine

/-! ### Byte memories -/

/-- The byte written at an offset, if one was. -/
def Memory.read : Memory → Nat → Option Byte
  | [], _ => none
  | (x, v) :: m, a => if a = x then some v else Memory.read m a

/-- `MemWrite` of one byte, keeping the offsets strictly rising (R9, R55). -/
def Memory.write : Memory → Nat → Byte → Memory
  | [], a, b => [(a, b)]
  | (x, v) :: m, a, b =>
    if a < x then (a, b) :: (x, v) :: m
    else if a = x then (a, b) :: m
    else (x, v) :: Memory.write m a b

/-- Bytes written one after another at rising offsets (R60). -/
def Memory.writeAll : Memory → Nat → List Byte → Memory
  | m, _, [] => m
  | m, a, b :: bs => Memory.writeAll (Memory.write m a b) (a + 1) bs

/-- `In[a]`, the byte of IN at an offset (R9, R50); where the host never wrote, a free value (log 3). -/
def State.inByte (s : State) (a : Nat) : Byte := (Memory.read s.inMem a).getD (Config.inUnwritten a)

/-- The byte of OUT at an offset (R51); where nothing was written since reset, a free value (R170, log 2). -/
def State.outByte (s : State) (a : Nat) : Byte :=
  (Memory.read s.outMem a).getD (Config.outAfterReset s.port.outEpoch a)

/-! ### Values computed from the state -/

/-- `npix = DESC_WIDTH * DESC_HEIGHT`, an exact integer (R28). -/
def Descriptor.npix (d : Descriptor) : Nat := d.width.toNat * d.height.toNat

/-- `npix` of the current descriptor (R28). -/
def State.npix (s : State) : Nat := s.desc.npix

/-- `chunk_end`, the end of the chunk region (R112). -/
def State.chunkEnd (s : State) : Nat :=
  if 14 + s.cfg.trailerLen ≤ s.len.toNat then s.len.toNat - s.cfg.trailerLen else 14

/-- The OUT offset of the current position's first byte, `pos * DESC_CHANNELS` (R117). -/
def State.outBase (s : State) : Nat := s.pos.toNat * s.desc.channels.toNat

/-- An opcode of n bytes at the cursor lies in the chunk region (R113). -/
def State.opcodeFits (s : State) (n : Nat) : Bool := decide (s.cur.toNat + n ≤ s.chunkEnd)

/-- The current position's bytes exist in OUT (R51, R59). -/
def State.positionFits (s : State) : Bool := decide (s.outBase + s.desc.channels.toNat ≤ s.cfg.outCapacity)

/-! ### Updates of one piece of state -/

/-- `raise E`, the error entry: STATUS.ERR gets the kind and the phase becomes ERROR; nothing else is saved or changed (R156). -/
def State.raise (k : ErrKind) (s : State) : State := { s with err := k, phase := .error }

/-- `px <- p`. -/
def State.setPx (p : Pixel) (s : State) : State := { s with px := p }

/-- `run <- f`. -/
def State.setRun (f : BitVec 6) (s : State) : State := { s with run := f }

/-- `cur <- c`. -/
def State.setCur (c : BitVec 64) (s : State) : State := { s with cur := c }

/-- `cur <- cur + n` (R114). -/
def State.advance (n : Nat) (s : State) : State := { s with cur := s.cur + BitVec.ofNat 64 n }

/-- `cache[hash(px)] <- px` (R115). -/
def State.insertPx (s : State) : State := { s with cache := s.cache.set (pixelHash s.px) s.px }

/-- A descriptor update. -/
def State.setDesc (d : Descriptor) (s : State) : State := { s with desc := d }

/-- `phase <- p`. -/
def State.setPhase (p : Phase) (s : State) : State := { s with phase := p }

/-- The output write: the pixel's channel bytes at the position's offsets (R117). -/
def State.writeOutput (s : State) : State :=
  { s with outMem := Memory.writeAll s.outMem s.outBase (outBytes s.desc.channels.toNat s.px) }

/-- `pos <- pos + 1`, and DONE when that is the last position (R118). -/
def State.nextPosition (s : State) : State :=
  { s with pos := s.pos + 1#64, phase := if s.pos.toNat + 1 = s.npix then .done else s.phase }

/-- A host write of one byte of IN (R50, R172). -/
def State.storeIn (a : BitVec 64) (b : Byte) (s : State) : State :=
  { s with inMem := Memory.write s.inMem a.toNat b }

/-- IN with other contents: only the host changes IN (R50, R172). -/
def State.setIn (m : Memory) (s : State) : State := { s with inMem := m }

/-- A host write of one byte of OUT. -/
def State.storeOut (a : BitVec 64) (b : Byte) (s : State) : State :=
  { s with outMem := Memory.write s.outMem a.toNat b }

/-- A host write of IN_LENGTH (R30). -/
def State.setInLength (v : BitVec 64) (s : State) : State := { s with inLength := v }

/-- An update of the model's own host port. -/
def State.setPort (p : HostPort) (s : State) : State := { s with port := p }

/-- Reset: every field of 10_state.md at its reset value, OUT unspecified, IN untouched (R170).
The parameters stay; the host's moves to come and the last value it read are the host's own. -/
def State.hardReset (s : State) : State :=
  { State.resetWith s.cfg with
    inMem := s.inMem
    port := { s.port with outEpoch := s.port.outEpoch + 1 } }

/-! ### Operations shared by the steps -/

/-- The end of every pixel step that raises nothing: the output write, then the position advance (R117, R118).
A position whose bytes do not exist in OUT is a fault (R51); R59 says no decode reaches one. -/
def State.finishPosition (s : State) : StepResult :=
  if s.positionFits then .next s.writeOutput.nextPosition else .fault .outOffsetAbsent

/-- What follows an opcode that resolved a pixel: `px`, then the cursor advance, then the cache insert (R110, R114, R115). -/
def State.resolve (n : Nat) (p : Pixel) (s : State) : State := ((s.setPx p).advance n).insertPx

/-- The bounds check of an opcode of n bytes: outside the chunk region it raises OutOfBoundsRead and nothing else happens (R113). -/
def State.ifFits (n : Nat) (s : State) (body : StepResult) : StepResult :=
  if s.opcodeFits n then body else .next (s.raise .outOfBoundsRead)

/-- The bytes a fetch reads: the tag at the cursor and, only where the whole opcode lies in the chunk region, its data bytes
(R66, R112, R113). -/
def State.fetchBytes (s : State) : List Byte :=
  let t := s.inByte s.cur.toNat
  if s.opcodeFits (opLen t) then (List.range (opLen t)).map (fun k => s.inByte (s.cur.toNat + k)) else [t]

end Sys2Proof.Machine
end

