-- ==== Sys2Proof/Machine/Opcodes.lean ====
section
/-! DEFINITION. The meanings of the six opcodes (spec 42_opcodes.md R130 to R135), each the whole of its pixel step from the bounds check to the position advance (41_pixel_step.md R110). -/

namespace Sys2Proof.Machine

/-- QOI_OP_RGB: red, green and blue replaced, alpha kept (R130). -/
def execRgb (r g b : Byte) (s : State) : StepResult :=
  s.ifFits 4 (s.resolve 4 ⟨r, g, b, s.px.a⟩).finishPosition

/-- QOI_OP_RGBA: all four channels replaced (R131). -/
def execRgba (r g b a : Byte) (s : State) : StepResult :=
  s.ifFits 5 (s.resolve 5 ⟨r, g, b, a⟩).finishPosition

/-- QOI_OP_INDEX: the pixel of cache slot i, read before the insert of the same step (R132). One byte always fits (R113). -/
def execIndex (i : BitVec 6) (s : State) : StepResult :=
  (s.resolve 1 (s.cache.get i.toFin)).finishPosition

/-- QOI_OP_DIFF: small deltas modulo 256, alpha kept (R133). -/
def execDiff (dr dg db : BitVec 2) (s : State) : StepResult :=
  (s.resolve 1 (addDeltas s.px (diffDelta dr) (diffDelta dg) (diffDelta db))).finishPosition

/-- QOI_OP_LUMA: red and blue deltas relative to green's, modulo 256, alpha kept (R134). -/
def execLuma (dg : BitVec 6) (drg dbg : BitVec 4) (s : State) : StepResult :=
  s.ifFits 2 (s.resolve 2 (addDeltas s.px (lumaSide dg drg) (lumaGreen dg) (lumaSide dg dbg))).finishPosition

/-- QOI_OP_RUN: the run counter set, px kept, no cache insert (R115, R135). -/
def execRun (f : BitVec 6) (s : State) : StepResult :=
  ((s.setRun f).advance 1).finishPosition

end Sys2Proof.Machine
end

