-- ==== Sys2Proof/Machine/Header.lean ====
section
/-! DEFINITION. START and the header step (spec 40_header_parser.md R90 to R103). The header step's parts are written last to first, each ending in the next. -/

namespace Sys2Proof.Machine

/-- START: the length is latched, the descriptor, the datapath and the error are initialised, the phase becomes HEADER;
IN and OUT are not touched (R90). -/
def State.start (s : State) : State :=
  { s with
    len := s.inLength
    desc := Descriptor.cleared
    px := s.cfg.initPixel
    cache := Vector.replicate 64 Pixel.zero
    run := 0#6
    cur := 0#64
    pos := 0#64
    err := .noError
    phase := .header }

/-- Hand-over: DONE for an image of no pixels, else PIXELS (R101). -/
def headerHandOver (s : State) : State := s.setPhase (if s.npix = 0 then .done else .pixels)

/-- Output admission: the exact size against OUT_CAPACITY (R100). -/
def headerAdmitSize (s : State) : State :=
  if s.cfg.outCapacity < s.npix * s.desc.channels.toNat then s.raise .allocationError else headerHandOver s

/-- Channel admission (R99). -/
def headerAdmitChannels (s : State) : State :=
  if s.desc.channels = 3#8 ∨ s.desc.channels = 4#8 then headerAdmitSize s else s.raise .channelsError

/-- The colorspace byte (R97), if there is one (R98). -/
def headerColorspace (s : State) : State :=
  if s.len.toNat < 14 then s.raise .outOfBoundsRead
  else headerAdmitChannels ((s.setDesc { s.desc with colorspace := s.inByte 13 }).setCur 14#64)

/-- The channels byte (R96), if there is one (R98). -/
def headerChannels (s : State) : State :=
  if s.len.toNat < 13 then s.raise .outOfBoundsRead
  else headerColorspace ((s.setDesc { s.desc with channels := s.inByte 12 }).setCur 13#64)

/-- The height (R95), if it fits (R98). -/
def headerHeight (s : State) : State :=
  if s.len.toNat < 12 then s.raise .outOfBoundsRead
  else headerChannels
    ((s.setDesc { s.desc with height := be32 (s.inByte 8) (s.inByte 9) (s.inByte 10) (s.inByte 11) }).setCur 12#64)

/-- The width (R94), if it fits (R98). -/
def headerWidth (s : State) : State :=
  if s.len.toNat < 8 then s.raise .outOfBoundsRead
  else headerHeight
    ((s.setDesc { s.desc with width := be32 (s.inByte 4) (s.inByte 5) (s.inByte 6) (s.inByte 7) }).setCur 8#64)

/-- The first four bytes of IN are "qoif" (R81, R93). -/
def State.signatureGood (s : State) : Bool :=
  decide (4 ≤ s.len.toNat) && decide ([s.inByte 0, s.inByte 1, s.inByte 2, s.inByte 3] = magic)

/-- The header step: the signature, then the fields in order, then the admissions (R92, R93, R103).
Fields written before an error stay written (R92). -/
def headerStep (s : State) : State :=
  if s.signatureGood then headerWidth (s.setCur 4#64) else s.raise .formatError

end Sys2Proof.Machine
end

