-- ==== Sys2Proof/Machine/Decoder.lean ====
section
/-! DEFINITION. The decoder's step: the run-length state machine, the tag fetch and the exhausted path (spec 41_pixel_step.md R110 to R119). -/

namespace Sys2Proof.Machine

/-- Run repeat: the counter falls by one and the same pixel is written again (R111). -/
def repeatStep (s : State) : StepResult := (s.setRun (s.run - 1#6)).finishPosition

/-- Exhausted path: no input is read and the last pixel is written again (R116). -/
def exhaustedStep (s : State) : StepResult := s.finishPosition

/-- Fetch and dispatch: the opcode at the cursor runs; one cut short by the region's end raises OutOfBoundsRead (R112, R113). -/
def fetchStep (s : State) : StepResult :=
  match decode s.fetchBytes with
  | .accepted i _ => exec i s
  | .rejected _ => .next (s.raise .outOfBoundsRead)

/-- The pixel step: a pending run first, then the tag fetch, then the exhausted path (R110). -/
def pixelStep (s : State) : StepResult :=
  if s.run ≠ 0#6 then repeatStep s
  else if s.cur.toNat < s.chunkEnd then fetchStep s
  else exhaustedStep s

/-- One turn of the decoder: the header step in HEADER, a pixel step in PIXELS. In IDLE, DONE and ERROR the decoder has no step
and the turn changes nothing (R27, R166; DESIGN CHOICE, safe, log 9). -/
def decoderStep (s : State) : StepResult :=
  match s.phase with
  | .idle => .next s
  | .header => .next (headerStep s)
  | .pixels => pixelStep s
  | .done => .next s
  | .error => .next s

end Sys2Proof.Machine
end

