-- ==== Sys2Proof/Machine/HostPort.lean ====
section
/-! DEFINITION. The host's moves: control fields, IN, OUT and reset (spec 10_state.md section 3, 20_memory.md R61, 70_reset_and_hazards.md), and whose move is next. -/

namespace Sys2Proof.Machine

/-- The value a host read of a control field returns, zero-extended to 64 bits (R29 to R37). -/
def State.regValue (s : State) : HostReg → BitVec 64
  | .ctrlStart => 0#64
  | .inLength => s.inLength
  | .statusState => s.statusState.setWidth 64
  | .statusErr => s.err.code.setWidth 64
  | .descWidth => s.desc.width.setWidth 64
  | .descHeight => s.desc.height.setWidth 64
  | .descChannels => s.desc.channels.setWidth 64
  | .descColorspace => s.desc.colorspace.setWidth 64
  | .obsPos => s.pos
  | .obsCursor => s.cur

/-- A host write of a control field: START acts unless BUSY (R29, R91), IN_LENGTH is written (R30), every other field is read only
and the write is ignored (R31 to R37; DEDUCED, log 10). CTRL.START is 1 bit wide and takes bit 0 (DEDUCED, log 11). -/
def State.writeReg (s : State) (r : HostReg) (v : BitVec 64) : State :=
  match r with
  | .ctrlStart => if v.getLsbD 0 && !s.busy then s.start else s
  | .inLength => s.setInLength v
  | .statusState => s
  | .statusErr => s
  | .descWidth => s
  | .descHeight => s
  | .descChannels => s
  | .descColorspace => s
  | .obsPos => s
  | .obsCursor => s

/-- The host's read returned this value (log 8). -/
def State.giveHost (v : BitVec 64) (s : State) : State := s.setPort { s.port with returned := v }

/-- A host write of IN: not below `len` while BUSY (R173, log 13). -/
def hostWriteIn (a : BitVec 64) (b : Byte) (s : State) : StepResult :=
  if s.busy && decide (a.toNat < s.len.toNat) then .refused .hostWritesInputWhileBusy else .next (s.storeIn a b)

/-- A host write of OUT: only offsets that exist (R51), not while BUSY (R174, log 13). -/
def hostWriteOut (a : BitVec 64) (b : Byte) (s : State) : StepResult :=
  if s.cfg.outCapacity ≤ a.toNat then .fault .outOffsetAbsent
  else if s.busy then .refused .hostWritesOutputWhileBusy
  else .next (s.storeOut a b)

/-- A host read of OUT: the byte there, or a fresh free value while BUSY (R61, R174, log 4). -/
def hostReadOut (a : BitVec 64) (s : State) : StepResult :=
  if s.cfg.outCapacity ≤ a.toNat then .fault .outOffsetAbsent
  else if s.busy then
    .next (s.setPort
      { s.port with
        returned := (Config.outWhileBusy s.port.busyReads).setWidth 64
        busyReads := s.port.busyReads + 1 })
  else .next (s.giveHost ((s.outByte a.toNat).setWidth 64))

/-- One move of the host. -/
def hostMove (m : HostMove) (s : State) : StepResult :=
  match m with
  | .writeReg r v => .next (s.writeReg r v)
  | .readReg r => .next (s.giveHost (s.regValue r))
  | .writeIn a b => hostWriteIn a b s
  | .writeOut a b => hostWriteOut a b s
  | .readOut a => hostReadOut a s
  | .reset => .next s.hardReset
  | .yield => decoderStep s

/-- Whose move is next: the host's while it has one pending, else the decoder's (DESIGN CHOICE, log 1). -/
def nextMove (s : State) : StepResult :=
  match s.port.pending with
  | [] => decoderStep s
  | m :: ms => hostMove m (s.setPort { s.port with pending := ms })

end Sys2Proof.Machine
end

