-- ==== Sys2Proof/Machine/Loader.lean ====
section
/-! DEFINITION. Loading an opcode from outside the machine, in place of the host's sequence of spec 70_reset_and_hazards.md R172 and the header step (log 5). -/

namespace Sys2Proof.Machine

/-- A decoder in PIXELS: as it is, or, in any other phase, as the header step of a 2x1 image of 4 channels leaves it (R101). -/
def State.inPixels (s : State) : State :=
  if s.phase = .pixels then s
  else { s with desc := ⟨2#32, 1#32, 4#8, 0#8⟩, cur := 14#64, pos := 0#64, err := .noError, phase := .pixels }

/-- These bytes at the cursor, inside the chunk region, no run pending and no host move before the fetch. -/
def State.loadOpcode (s : State) (bytes : List Byte) : State :=
  let t := s.inPixels
  { t with
    run := 0#6
    len := BitVec.ofNat 64 (max t.len.toNat (t.cur.toNat + bytes.length + t.cfg.trailerLen))
    inMem := Memory.writeAll t.inMem t.cur.toNat bytes
    port := { t.port with pending := [] } }

end Sys2Proof.Machine
end

