-- ==== Sys2Proof/Machine/Step.lean ====
section
/-! DEFINITION. One step of the machine, and the state that is about to fetch a given opcode. -/

namespace Sys2Proof.Machine

/-- One step: the host's next move or the decoder's (R20). -/
def step (s : State) : Host.Outcome State Fault Refusal := nextMove s

/-- The state whose very next step fetches the opcode of a table word: a program is loaded from outside the machine (log 5). -/
def State.withFetchWord (s : State) (nbits w : Nat) : State := s.loadOpcode (tableBytes nbits w)

end Sys2Proof.Machine
end

