-- ==== Sys2Proof/Safety.lean ====
section
/-! DEFINITION. What a safe run is: the invariant of the block, and the vocabulary the claims are stated in. -/

namespace Sys2Proof.Machine

/-- The channel counts a decode is admitted with (spec 40_header_parser.md R99). -/
abbrev State.ChannelsAdmitted (s : State) : Prop := s.desc.channels = 3#8 ∨ s.desc.channels = 4#8

/-- Every slot is empty or holds a pixel at its own hash (41_pixel_step.md R120). -/
def State.SlotsAtHash (s : State) : Prop :=
  ∀ k : Fin 64, s.cache.get k = Pixel.zero ∨ pixelHash (s.cache.get k) = k

/-- What the header step admits and a decode keeps: a 14-byte header, 3 or 4 channels, an image that fits in OUT
(40_header_parser.md R99 to R101), and the cursor inside the chunk region (41_pixel_step.md R114). -/
structure State.Admitted (s : State) : Prop where
  channels : s.ChannelsAdmitted
  sizeFits : s.npix * s.desc.channels.toNat ≤ s.cfg.outCapacity
  headerRead : 14 ≤ s.cur.toNat
  lengthHeader : 14 ≤ s.len.toNat
  cursorInRegion : s.cur.toNat ≤ s.chunkEnd

/-- The datapath as reset and START leave it (10_state.md section 5). -/
structure State.Fresh (s : State) : Prop where
  px : s.px = s.cfg.initPixel
  run : s.run = 0#6
  cache : s.cache = Vector.replicate 64 Pixel.zero
  cur : s.cur = 0#64
  pos : s.pos = 0#64
  desc : s.desc = Descriptor.cleared

/-- The invariant of the block: reset has it and every step keeps it. -/
structure State.Inv (s : State) : Prop where
  /-- IN keeps its canonical form. -/
  inSorted : Memory.wf s.inMem
  /-- OUT keeps its canonical form. -/
  outSorted : Memory.wf s.outMem
  /-- No OUT offset at or above OUT_CAPACITY is ever written (R59). -/
  outExists : ∀ c ∈ s.outMem, c.1 < s.cfg.outCapacity
  /-- The cache invariant (R120). -/
  slots : s.SlotsAtHash
  /-- Values 62 and 63 of the run counter never occur (R22). -/
  runSmall : s.run.toNat ≤ 61
  /-- STATUS.ERR is non-zero exactly in ERROR (R32). -/
  errExact : s.err = .noError ↔ s.phase ≠ .error
  /-- The cursor stays at or below the length (R24). -/
  cursorBound : s.cur.toNat ≤ s.len.toNat
  /-- The position stays at or below npix (R25). -/
  positionBound : s.pos.toNat ≤ s.npix
  /-- IDLE is the state after reset (R170). -/
  idleFresh : s.phase = .idle → s.Fresh
  /-- HEADER is the state after START (R90). -/
  headerFresh : s.phase = .header → s.Fresh
  /-- PIXELS is entered and kept only for an admitted image with positions left (R101, R118). -/
  pixelsAdmitted : s.phase = .pixels → s.Admitted ∧ s.pos.toNat < s.npix
  /-- DONE is reached at the last position (R118). -/
  doneComplete : s.phase = .done → s.Admitted ∧ s.pos.toNat = s.npix

/-- The next move is the decoder's, in PIXELS. -/
structure State.AtPixelStep (s : State) : Prop where
  phase : s.phase = .pixels
  noMove : s.port.pending = []

/-- The next move is the decoder's, in HEADER. -/
structure State.AtHeaderStep (s : State) : Prop where
  phase : s.phase = .header
  noMove : s.port.pending = []

/-- The next step fetches a tag (41_pixel_step.md R112). -/
structure State.AtFetch (s : State) : Prop where
  step : s.AtPixelStep
  noRun : s.run = 0#6
  inRegion : s.cur.toNat < s.chunkEnd

/-- IN begins with "qoif" and has at least those 4 bytes (40_header_parser.md R93). -/
structure State.Signed (s : State) : Prop where
  length : 4 ≤ s.len.toNat
  q : s.inByte 0 = 0x71#8
  o : s.inByte 1 = 0x6F#8
  i : s.inByte 2 = 0x69#8
  f : s.inByte 3 = 0x66#8

/-- What no opcode writes, outside an error: the latched length, IN_LENGTH, STATUS.ERR, the descriptor, IN, the parameters and
the host port. -/
structure State.Kept (s t : State) : Prop where
  len : t.len = s.len
  inLength : t.inLength = s.inLength
  err : t.err = s.err
  desc : t.desc = s.desc
  inMem : t.inMem = s.inMem
  cfg : t.cfg = s.cfg
  port : t.port = s.port

/-- From `s` to `t` one position was finished: its channel bytes stand in OUT at `pos * DESC_CHANNELS`, every other byte of OUT
reads as before, and the position advanced (41_pixel_step.md R117, R118). -/
structure State.Emitted (s t : State) : Prop where
  red : t.outByte (s.pos.toNat * s.desc.channels.toNat) = t.px.r
  green : t.outByte (s.pos.toNat * s.desc.channels.toNat + 1) = t.px.g
  blue : t.outByte (s.pos.toNat * s.desc.channels.toNat + 2) = t.px.b
  alpha : s.desc.channels = 4#8 → t.outByte (s.pos.toNat * s.desc.channels.toNat + 3) = t.px.a
  others : ∀ a, a < s.pos.toNat * s.desc.channels.toNat ∨
    s.pos.toNat * s.desc.channels.toNat + s.desc.channels.toNat ≤ a → t.outByte a = s.outByte a
  pos : t.pos = s.pos + 1#64
  phase : t.phase = if s.pos.toNat + 1 = s.desc.width.toNat * s.desc.height.toNat then .done else s.phase

/-- From `s` to `t` an opcode of `n` bytes resolved the pixel `p`: `px` holds it, the cursor passed the opcode, slot `hash(p)` holds it
and no other slot changed, the run counter is kept, and the position was finished (R114, R115). -/
structure State.Resolved (s t : State) (n : Nat) (p : Pixel) : Prop where
  px : t.px = p
  run : t.run = s.run
  cur : t.cur = s.cur + BitVec.ofNat 64 n
  slot : t.cache.get (pixelHash p) = p
  slots : ∀ k, k ≠ pixelHash p → t.cache.get k = s.cache.get k
  kept : s.Kept t
  emitted : s.Emitted t

/-- From `s` to `t` a position was finished with the pixel, the cache and the cursor unchanged (R111, R116). -/
structure State.Replayed (s t : State) : Prop where
  px : t.px = s.px
  cache : t.cache = s.cache
  cur : t.cur = s.cur
  kept : s.Kept t
  emitted : s.Emitted t

end Sys2Proof.Machine
end

