-- ==== Sys2Proof/Certificates/Slice0/Obligations.lean ====
section
/-! DEFINITION. The statements about the model, for the provers. Each docstring names the rule of the spec it formalises; free values are nowhere fixed. -/

open Sys2Proof Sys2Proof.Machine

/-! ### Encoding (30_encoding.md) -/

/-- Decoding the bytes of any well-formed opcode, with any bytes after them, gives it back and leaves those bytes (R71, R73). -/
def Obligations.DecodeOfEncodeIsIdentity : Prop :=
  ∀ (i : Instr) (rest : List Byte), i.wf = true → decode (encode i ++ rest) = .accepted i rest

/-- Whatever the decoder accepts is well formed, and its encoding is exactly the bytes consumed: no bit is dropped (R73, R79). -/
def Obligations.EncodeOfDecodeIsIdentity : Prop :=
  ∀ (bs rest : List Byte) (i : Instr), decode bs = .accepted i rest → i.wf = true ∧ encode i ++ rest = bs

/-- R72: the tag test, in its order, over every tag value: 0xFE, then 0xFF, then the top 2 bits. -/
def Obligations.TagSelectsTheOpcodeClass : Prop :=
  decodeTag 0xFE#8 = .rgb ∧ decodeTag 0xFF#8 = .rgba ∧
  ∀ t : Byte, t.toNat < 0xFE →
    (t.toNat / 64 = 0 → decodeTag t = .index) ∧ (t.toNat / 64 = 1 → decodeTag t = .diff) ∧
    (t.toNat / 64 = 2 → decodeTag t = .luma) ∧ (t.toNat / 64 = 3 → decodeTag t = .run)

/-- R80: `op_len` is a function of the tag alone, and an opcode of that many bytes is what the decoder consumes. -/
def Obligations.OpcodeLengthIsGivenByTheTag : Prop :=
  opLen 0xFE#8 = 4 ∧ opLen 0xFF#8 = 5 ∧
  (∀ t : Byte, t ≠ 0xFE#8 → t ≠ 0xFF#8 → opLen t = if t.toNat / 64 = 2 then 2 else 1) ∧
  ∀ (t : Byte) (ds : List Byte), opLen t ≤ ds.length + 1 →
    ∃ i : Instr, decode (t :: ds) = .accepted i (ds.drop (opLen t - 1)) ∧ i.size = opLen t

/-- R82: no tag and no data byte is illegal; the decoder rejects bytes only when they end inside an opcode. -/
def Obligations.DecoderRejectsOnlyCutOpcodes : Prop :=
  ∀ (t : Byte) (ds : List Byte), (∃ why, decode (t :: ds) = .rejected why) ↔ ds.length + 1 < opLen t

/-- R78: the data bytes of QOI_OP_RGB and QOI_OP_RGBA are the channel values verbatim, 0xFE and 0xFF included. -/
def Obligations.ColourDataBytesAreVerbatim : Prop :=
  ∀ (r g b a : Byte) (rest : List Byte),
    decode (0xFE#8 :: r :: g :: b :: rest) = .accepted (.rgb r g b) rest ∧
    decode (0xFF#8 :: r :: g :: b :: a :: rest) = .accepted (.rgba r g b a) rest

/-- Words written out from the formats of R73 and the vectors of 95_test_vectors.md decode to their opcodes. -/
def Obligations.SampleWordsDecode : Prop :=
  decode [0x17#8] = .accepted (.index 23#6) [] ∧
  decode [0x55#8] = .accepted (.diff 1#2 1#2 1#2) [] ∧
  decode [0x70#8] = .accepted (.diff 3#2 0#2 0#2) [] ∧
  decode [0xA0#8, 0x88#8] = .accepted (.luma 32#6 8#4 8#4) [] ∧
  decode [0x80#8, 0xF0#8] = .accepted (.luma 0#6 15#4 0#4) [] ∧
  decode [0xFD#8] = .accepted (.run 61#6) [] ∧
  decode [0xFE#8, 0x01#8, 0x02#8, 0x03#8] = .accepted (.rgb 1#8 2#8 3#8) [] ∧
  decode [0xFF#8, 0x0A#8, 0x0A#8, 0x0A#8, 0xFF#8] = .accepted (.rgba 10#8 10#8 10#8 255#8) []

/-- R83 to R85: which opcode a listing line stands for. A line of QOI_OP_DIFF, QOI_OP_LUMA, QOI_OP_INDEX or QOI_OP_RUN stands for one
exactly when its operands are in range, its fields are the operands with their bias, and the bytes of any line that is an opcode
decode to it. -/
def Obligations.ListingLinesAssembleInRange : Prop :=
  (∀ dr dg db : Int,
    ((Line.diff dr dg db).instr?.isSome = true ↔ (-2 ≤ dr ∧ dr ≤ 1) ∧ (-2 ≤ dg ∧ dg ≤ 1) ∧ (-2 ≤ db ∧ db ≤ 1)) ∧
    ∀ i, (Line.diff dr dg db).instr? = some i → ∃ fr fg fb : BitVec 2, i = .diff fr fg fb ∧
      (fr.toNat : Int) = dr + 2 ∧ (fg.toNat : Int) = dg + 2 ∧ (fb.toNat : Int) = db + 2) ∧
  (∀ dg drg dbg : Int,
    ((Line.luma dg drg dbg).instr?.isSome = true ↔ (-32 ≤ dg ∧ dg ≤ 31) ∧ (-8 ≤ drg ∧ drg ≤ 7) ∧ (-8 ≤ dbg ∧ dbg ≤ 7)) ∧
    ∀ i, (Line.luma dg drg dbg).instr? = some i → ∃ (fg : BitVec 6) (fr fb : BitVec 4), i = .luma fg fr fb ∧
      (fg.toNat : Int) = dg + 32 ∧ (fr.toNat : Int) = drg + 8 ∧ (fb.toNat : Int) = dbg + 8) ∧
  (∀ n : Nat,
    ((Line.index n).instr?.isSome = true ↔ n ≤ 63) ∧
    ∀ i, (Line.index n).instr? = some i → ∃ f : BitVec 6, i = .index f ∧ f.toNat = n) ∧
  (∀ n : Nat,
    ((Line.run n).instr?.isSome = true ↔ 1 ≤ n ∧ n ≤ 62) ∧
    ∀ i, (Line.run n).instr? = some i → ∃ f : BitVec 6, i = .run f ∧ f.toNat = n - 1) ∧
  (∀ r g b a : Byte, (Line.rgb r g b).instr? = some (.rgb r g b) ∧ (Line.rgba r g b a).instr? = some (.rgba r g b a)) ∧
  ∀ (l : Line) (i : Instr), l.instr? = some i → ∃ bs, l.bytes? = some bs ∧ decode bs = .accepted i []

/-! ### The opcodes (42_opcodes.md) -/

/-- R130: QOI_OP_RGB. -/
def Obligations.RgbSetsColourAndKeepsAlpha : Prop :=
  ∀ (r g b : Byte) (s : State),
    decode [0xFE#8, r, g, b] = .accepted (.rgb r g b) [] ∧
    (s.cur.toNat + 4 ≤ s.chunkEnd → s.positionFits = true → s.ChannelsAdmitted →
      ∃ t, exec (.rgb r g b) s = .next t ∧ s.Resolved t 4 ⟨r, g, b, s.px.a⟩) ∧
    (s.chunkEnd < s.cur.toNat + 4 → exec (.rgb r g b) s = .next (s.raise .outOfBoundsRead))

/-- R131: QOI_OP_RGBA. -/
def Obligations.RgbaSetsAllFourChannels : Prop :=
  ∀ (r g b a : Byte) (s : State),
    decode [0xFF#8, r, g, b, a] = .accepted (.rgba r g b a) [] ∧
    (s.cur.toNat + 5 ≤ s.chunkEnd → s.positionFits = true → s.ChannelsAdmitted →
      ∃ t, exec (.rgba r g b a) s = .next t ∧ s.Resolved t 5 ⟨r, g, b, a⟩) ∧
    (s.chunkEnd < s.cur.toNat + 5 → exec (.rgba r g b a) s = .next (s.raise .outOfBoundsRead))

/-- R132 (and R74): QOI_OP_INDEX; the slot is read as it was before the insert of the same step. -/
def Obligations.IndexReadsTheNamedSlot : Prop :=
  ∀ (i : BitVec 6) (s : State),
    decode [0b00#2 ++ i] = .accepted (.index i) [] ∧
    (s.positionFits = true → s.ChannelsAdmitted →
      ∃ t, exec (.index i) s = .next t ∧ s.Resolved t 1 (s.cache.get (Fin.ofNat 64 i.toNat)))

/-- R133 (and R75, R136): QOI_OP_DIFF; each channel gets its field minus 2, modulo 256, and alpha is kept. -/
def Obligations.DiffAddsSmallDeltasModulo256 : Prop :=
  ∀ (dr dg db : BitVec 2) (s : State),
    decode [0b01#2 ++ dr ++ dg ++ db] = .accepted (.diff dr dg db) [] ∧
    (s.positionFits = true → s.ChannelsAdmitted →
      ∃ t, exec (.diff dr dg db) s = .next t ∧ s.Resolved t 1 t.px ∧
        (t.px.r.toNat : Int) = (s.px.r.toNat + (dr.toNat - 2 : Int)) % 256 ∧
        (t.px.g.toNat : Int) = (s.px.g.toNat + (dg.toNat - 2 : Int)) % 256 ∧
        (t.px.b.toNat : Int) = (s.px.b.toNat + (db.toNat - 2 : Int)) % 256 ∧
        t.px.a = s.px.a)

/-- R134 (and R76, R136): QOI_OP_LUMA; red's and blue's deltas are relative to green's, modulo 256, and alpha is kept. -/
def Obligations.LumaAddsDeltasRelativeToGreen : Prop :=
  ∀ (dg : BitVec 6) (drg dbg : BitVec 4) (s : State),
    decode [0b10#2 ++ dg, drg ++ dbg] = .accepted (.luma dg drg dbg) [] ∧
    (s.cur.toNat + 2 ≤ s.chunkEnd → s.positionFits = true → s.ChannelsAdmitted →
      ∃ t, exec (.luma dg drg dbg) s = .next t ∧ s.Resolved t 2 t.px ∧
        (t.px.r.toNat : Int) = (s.px.r.toNat + ((dg.toNat - 32 : Int) + (drg.toNat - 8 : Int))) % 256 ∧
        (t.px.g.toNat : Int) = (s.px.g.toNat + (dg.toNat - 32 : Int)) % 256 ∧
        (t.px.b.toNat : Int) = (s.px.b.toNat + ((dg.toNat - 32 : Int) + (dbg.toNat - 8 : Int))) % 256 ∧
        t.px.a = s.px.a) ∧
    (s.chunkEnd < s.cur.toNat + 2 → exec (.luma dg drg dbg) s = .next (s.raise .outOfBoundsRead))

/-- R135: QOI_OP_RUN sets the counter, keeps the pixel and the whole cache, and emits the tag's own position. -/
def Obligations.RunSetsTheCounterWithoutInsert : Prop :=
  ∀ (f : BitVec 6) (s : State), f.toNat ≤ 61 →
    decode [0b11#2 ++ f] = .accepted (.run f) [] ∧
    (s.positionFits = true → s.ChannelsAdmitted →
      ∃ t, exec (.run f) s = .next t ∧ t.run = f ∧ t.px = s.px ∧ t.cache = s.cache ∧ t.cur = s.cur + 1#64 ∧
        s.Kept t ∧ s.Emitted t)

/-- The frame of the five opcodes that resolve a pixel: what exec leaves unchanged whenever it answers a next state, an error or not. -/
def Obligations.FrameOfTheResolvingOpcodes : Prop :=
  ∀ (i : Instr) (s t : State), i.opClass ≠ .run → exec i s = .next t →
    t.run = s.run ∧ t.len = s.len ∧ t.inLength = s.inLength ∧ t.desc = s.desc ∧ t.cfg = s.cfg ∧ t.port = s.port ∧
    (t.err = s.err ∨ t = s.raise .outOfBoundsRead) ∧
    (∀ k, k ≠ pixelHash t.px → t.cache.get k = s.cache.get k) ∧
    (i.opClass = .rgb ∨ i.opClass = .diff ∨ i.opClass = .luma → t.px.a = s.px.a) ∧
    (∀ a, t.inByte a = s.inByte a) ∧
    (∀ a, a < s.outBase ∨ s.outBase + s.desc.channels.toNat ≤ a → t.outByte a = s.outByte a)

/-- The frame of QOI_OP_RUN: everything but the counter, the cursor, the position, the phase and the position's bytes. -/
def Obligations.FrameOfTheRunOpcode : Prop :=
  ∀ (f : BitVec 6) (s t : State), exec (.run f) s = .next t →
    t.px = s.px ∧ t.cache = s.cache ∧ t.err = s.err ∧ t.len = s.len ∧ t.inLength = s.inLength ∧ t.desc = s.desc ∧
    t.cfg = s.cfg ∧ t.port = s.port ∧
    (∀ a, t.inByte a = s.inByte a) ∧
    (∀ a, a < s.outBase ∨ s.outBase + s.desc.channels.toNat ≤ a → t.outByte a = s.outByte a)

/-- R51, R59: an opcode is never refused, and it stops with a fault exactly when it would write a byte that OUT does not have. -/
def Obligations.OpcodesStopOnlyOutsideTheOutputMemory : Prop :=
  ∀ (i : Instr) (s : State),
    (∀ why, exec i s ≠ .refused why) ∧
    (exec i s = .fault .outOffsetAbsent ↔
      (i.size = 1 ∨ s.cur.toNat + i.size ≤ s.chunkEnd) ∧ s.cfg.outCapacity < s.outBase + s.desc.channels.toNat)

/-- R121: at a position of a 3-channel image no alpha reaches OUT, neither that of the pixel before, nor that of any cache slot, nor
the operand of QOI_OP_RGBA. A second state that differs from the first in those alphas alone leaves the same OUT, after any opcode
and after any pixel step. (Alpha still selects the slot a pixel is inserted at, and so later positions: R39, R121.) -/
def Obligations.AlphaNeverReachesAThreeChannelImage : Prop :=
  ∀ (s u : State) (x : Byte) (c : Vector Pixel 64), s.desc.channels = 3#8 →
    (∀ k, (c.get k).r = (s.cache.get k).r ∧ (c.get k).g = (s.cache.get k).g ∧ (c.get k).b = (s.cache.get k).b) →
    u = { s with px := { s.px with a := x }, cache := c } →
    (∀ (i : Instr) (t : State), exec i s = .next t → ∃ v, exec i u = .next v ∧ v.outMem = t.outMem) ∧
    (∀ (r g b a a' : Byte) (t : State), exec (.rgba r g b a) s = .next t →
      ∃ v, exec (.rgba r g b a') u = .next v ∧ v.outMem = t.outMem) ∧
    (∀ t : State, s.AtPixelStep → step s = .next t → ∃ v, step u = .next v ∧ v.outMem = t.outMem)

/-! ### The pixel step (41_pixel_step.md) -/

/-- When the bytes a fetch reads decode to an opcode, the step is that opcode's meaning and nothing else (R110, R137). -/
def Obligations.StepRunsTheDecodedOpcode : Prop :=
  ∀ (s : State) (i : Instr) (rest : List Byte), s.AtFetch → decode s.fetchBytes = .accepted i rest → step s = exec i s

/-- When IN holds the bytes of a well-formed opcode at the cursor, inside the chunk region, the step is that opcode's meaning. -/
def Obligations.StepRunsTheOpcodeInInputMemory : Prop :=
  ∀ (s : State) (i : Instr), s.AtFetch → i.wf = true → s.cur.toNat + i.size ≤ s.chunkEnd →
    (∀ k b, (encode i)[k]? = some b → s.inByte (s.cur.toNat + k) = b) → step s = exec i s

/-- R113: a tag whose opcode does not fit in the chunk region raises OutOfBoundsRead and nothing else of the step takes effect; a
single-byte opcode always fits, and the opcodes that may not are those of 4, 5 and 2 bytes. -/
def Obligations.CutOpcodeRaisesOutOfBoundsRead : Prop :=
  ∀ s : State, s.AtFetch →
    (s.chunkEnd < s.cur.toNat + opLen (s.inByte s.cur.toNat) →
      step s = .next (s.raise .outOfBoundsRead) ∧
        (decodeTag (s.inByte s.cur.toNat) = .rgb ∨ decodeTag (s.inByte s.cur.toNat) = .rgba ∨
          decodeTag (s.inByte s.cur.toNat) = .luma)) ∧
    (opLen (s.inByte s.cur.toNat) = 1 → s.cur.toNat + opLen (s.inByte s.cur.toNat) ≤ s.chunkEnd)

/-- R157: an error of a pixel step is precise: it is OutOfBoundsRead, and everything but STATUS.ERR and the phase is as before. -/
def Obligations.PixelStepErrorsArePrecise : Prop :=
  ∀ s t : State, s.AtPixelStep → step s = .next t → t.phase = .error →
    t = s.raise .outOfBoundsRead ∧ s.run = 0#6 ∧ s.cur.toNat < s.chunkEnd ∧
      s.chunkEnd < s.cur.toNat + opLen (s.inByte s.cur.toNat)

/-- R50, R64, R26: no decoder step writes IN, the latched length, IN_LENGTH or a parameter. -/
def Obligations.DecoderNeverWritesItsInput : Prop :=
  ∀ s t : State, s.port.pending = [] → step s = .next t →
    (∀ a, t.inByte a = s.inByte a) ∧ t.len = s.len ∧ t.inLength = s.inLength ∧ t.cfg = s.cfg ∧ t.port = s.port

/-- R111: with a run pending the step emits the same pixel and decrements the counter, wherever the cursor stands. -/
def Obligations.RunRepeatEmitsThePreviousPixel : Prop :=
  ∀ s : State, s.AtPixelStep → s.run ≠ 0#6 → s.positionFits = true → s.ChannelsAdmitted →
    ∃ t, step s = .next t ∧ t.run.toNat = s.run.toNat - 1 ∧ s.Replayed t

/-- R112, R116, R160: where the chunk region ends, and that with no run pending and the region exhausted the step replays the last
pixel; it is no error. -/
def Obligations.ExhaustedInputReplaysTheLastPixel : Prop :=
  ∀ s : State,
    (14 + s.cfg.trailerLen ≤ s.len.toNat → s.chunkEnd = s.len.toNat - s.cfg.trailerLen) ∧
    (s.len.toNat < 14 + s.cfg.trailerLen → s.chunkEnd = 14) ∧
    (s.AtPixelStep → s.run = 0#6 → s.chunkEnd ≤ s.cur.toNat → s.positionFits = true → s.ChannelsAdmitted →
      ∃ t, step s = .next t ∧ t.run = 0#6 ∧ s.Replayed t)

/-- R77, R111, R135: a run tag of field f emits f+1 copies of the pixel before it, as far as positions remain. -/
def Obligations.RunTagEmitsOneMoreCopyThanItsField : Prop :=
  ∀ (s : State) (f : BitVec 6) (k : Nat), s.Inv → s.AtFetch → f.toNat ≤ 61 → s.inByte s.cur.toNat = 0b11#2 ++ f →
    k ≤ f.toNat → s.pos.toNat + k < s.npix →
    ∃ t : State, Host.Core.run Sys2Proof.core (k + 1) s = .next t ∧ t.px = s.px ∧ t.cache = s.cache ∧ t.cur = s.cur + 1#64 ∧
      t.run.toNat = f.toNat - k ∧ t.pos.toNat = s.pos.toNat + k + 1 ∧
      ∀ j c b, j ≤ k → (outBytes s.desc.channels.toNat s.px)[c]? = some b →
        t.outByte ((s.pos.toNat + j) * s.desc.channels.toNat + c) = b

/-- R58, R117: a decoder step in PIXELS writes only the bytes of its own position, which lie inside the image: positions already
written, positions still to come and everything at or above the image's end keep their bytes. -/
def Obligations.OutputIsWrittenOncePerPosition : Prop :=
  ∀ s t : State, s.Inv → s.AtPixelStep → step s = .next t →
    (∀ a, a < s.pos.toNat * s.desc.channels.toNat → t.outByte a = s.outByte a) ∧
    (∀ a, (s.pos.toNat + 1) * s.desc.channels.toNat ≤ a → t.outByte a = s.outByte a) ∧
    (s.pos.toNat + 1) * s.desc.channels.toNat ≤ s.npix * s.desc.channels.toNat

/-- R118: a pixel step that raises nothing advances the position by one and ends the decode exactly at npix. -/
def Obligations.LastPositionEndsTheDecode : Prop :=
  ∀ s t : State, s.Inv → s.AtPixelStep → step s = .next t → t.phase ≠ .error →
    t.pos.toNat = s.pos.toNat + 1 ∧ t.err = .noError ∧ (t.phase = .done ↔ t.pos.toNat = s.npix) ∧
    (t.phase = .pixels ↔ t.pos.toNat ≠ s.npix)

/-- R120, first sentence: every step keeps every slot empty or at its own hash. -/
def Obligations.EverySlotStaysEmptyOrAtItsHash : Prop :=
  ∀ s t : State, s.SlotsAtHash → step s = .next t → t.SlotsAtHash

/-- R120: once the current pixel is in the cache at its hash, every later pixel step keeps it so. -/
def Obligations.CurrentPixelStaysInTheCache : Prop :=
  ∀ s t : State, s.AtPixelStep → s.cache.get (pixelHash s.px) = s.px → step s = .next t → t.cache.get (pixelHash t.px) = t.px

/-- R175: the pixel an opcode inserted is what a QOI_OP_INDEX of its slot reads at the very next position. -/
def Obligations.InsertedPixelIsReadBackByIndex : Prop :=
  ∀ (i : Instr) (s t : State), i.opClass ≠ .run → exec i s = .next t → t.phase ≠ .error → t.positionFits = true →
    ∃ u, exec (.index (BitVec.ofNat 6 (pixelHash t.px).val)) t = .next u ∧ u.px = t.px

/-! ### START and the header step (40_header_parser.md) -/

/-- R90: a write of 1 to CTRL.START in IDLE, DONE or ERROR begins a decode. -/
def Obligations.StartBeginsADecode : Prop :=
  ∀ (s : State) (ms : List HostMove), s.busy = false → s.port.pending = .writeReg .ctrlStart 1#64 :: ms →
    ∃ t, step s = .next t ∧ t.len = s.inLength ∧ t.desc = ⟨0#32, 0#32, 0#8, 0#8⟩ ∧ t.px = s.cfg.initPixel ∧
      (∀ k, t.cache.get k = ⟨0#8, 0#8, 0#8, 0#8⟩) ∧ t.run = 0#6 ∧ t.cur = 0#64 ∧ t.pos = 0#64 ∧ t.err = .noError ∧
      t.phase = .header ∧ t.statusState = 1#2 ∧ t.inLength = s.inLength ∧ t.inMem = s.inMem ∧ t.outMem = s.outMem ∧
      t.cfg = s.cfg ∧ t.port.pending = ms

/-- R91 (and R29): a write of CTRL.START while BUSY, and a write of 0 at any time, change nothing, and no host move but reset ends
a running decode. -/
def Obligations.StartIsIgnoredWhileBusy : Prop :=
  (∀ (s : State) (v : BitVec 64) (ms : List HostMove), (s.busy = true ∨ v = 0#64) →
    s.port.pending = .writeReg .ctrlStart v :: ms → step s = .next (s.setPort { s.port with pending := ms })) ∧
  ∀ (m : HostMove) (s t : State), s.busy = true → m ≠ .reset → m ≠ .yield → hostMove m s = .next t → t.phase = s.phase

/-- R93: a buffer of fewer than 4 bytes or without "qoif" raises FormatError, with no descriptor field, cursor or OUT write, and
no byte beyond the first 4, nor any at or above `len`, has a part in it. -/
def Obligations.BadSignatureRaisesFormatError : Prop :=
  ∀ s : State, s.Inv → s.AtHeaderStep → ¬ s.Signed →
    ∃ t, step s = .next t ∧ t.phase = .error ∧ t.err = .formatError ∧ t.desc = ⟨0#32, 0#32, 0#8, 0#8⟩ ∧ t.cur = 0#64 ∧
      t.outMem = s.outMem ∧
      ∀ m : Memory, (∀ a, a < 4 → a < s.len.toNat → (s.setIn m).inByte a = s.inByte a) →
        step (s.setIn m) = .next (t.setIn m)

/-- R98: a good signature and fewer than 14 bytes raise OutOfBoundsRead at the first field that does not fit; the fields before it
stay written. -/
def Obligations.ShortHeaderRaisesOutOfBoundsRead : Prop :=
  ∀ s : State, s.AtHeaderStep → s.Signed → s.len.toNat < 14 →
    ∃ t, step s = .next t ∧ t.phase = .error ∧ t.err = .outOfBoundsRead ∧
      t.cur = (if s.len.toNat < 8 then 4#64 else if s.len.toNat < 12 then 8#64 else if s.len.toNat < 13 then 12#64 else 13#64) ∧
      t.desc =
        ⟨if s.len.toNat < 8 then s.desc.width else be32 (s.inByte 4) (s.inByte 5) (s.inByte 6) (s.inByte 7),
          if s.len.toNat < 12 then s.desc.height else be32 (s.inByte 8) (s.inByte 9) (s.inByte 10) (s.inByte 11),
          if s.len.toNat < 13 then s.desc.channels else s.inByte 12, s.desc.colorspace⟩

/-- R94, R95: width and height are the big-endian words at offsets 4 and 8, whatever happens later in the step. -/
def Obligations.DimensionsAreBigEndianWords : Prop :=
  ∀ s : State, s.AtHeaderStep → s.Signed →
    ∃ t, step s = .next t ∧
      (8 ≤ s.len.toNat → t.desc.width.toNat =
        (s.inByte 4).toNat * 2 ^ 24 + (s.inByte 5).toNat * 2 ^ 16 + (s.inByte 6).toNat * 2 ^ 8 + (s.inByte 7).toNat) ∧
      (12 ≤ s.len.toNat → t.desc.height.toNat =
        (s.inByte 8).toNat * 2 ^ 24 + (s.inByte 9).toNat * 2 ^ 16 + (s.inByte 10).toNat * 2 ^ 8 + (s.inByte 11).toNat)

/-- R99 (with R92, R94 to R97): after a 14-byte header the descriptor holds its four fields; a channel count other than 3 or 4
raises ChannelsError, the four fields keep the values read, and OUT is not written. -/
def Obligations.OtherChannelCountsRaiseChannelsError : Prop :=
  ∀ s : State, s.AtHeaderStep → s.Signed → 14 ≤ s.len.toNat →
    ∃ t, step s = .next t ∧
      t.desc = ⟨be32 (s.inByte 4) (s.inByte 5) (s.inByte 6) (s.inByte 7),
        be32 (s.inByte 8) (s.inByte 9) (s.inByte 10) (s.inByte 11), s.inByte 12, s.inByte 13⟩ ∧
      t.cur = 14#64 ∧ t.outMem = s.outMem ∧
      (¬ (s.inByte 12 = 3#8 ∨ s.inByte 12 = 4#8) ↔ t.phase = .error ∧ t.err = .channelsError)

/-- R100, R101, R103: an image of 3 or 4 channels whose exact size exceeds OUT_CAPACITY raises AllocationError; otherwise the decode
ends at once for no pixels, and enters PIXELS for some. -/
def Obligations.ImageSizeDecidesAdmission : Prop :=
  ∀ s t : State, s.Inv → s.AtHeaderStep → s.Signed → 14 ≤ s.len.toNat → s.inByte 12 = 3#8 ∨ s.inByte 12 = 4#8 →
    step s = .next t →
    (s.cfg.outCapacity < t.desc.width.toNat * t.desc.height.toNat * t.desc.channels.toNat →
      t.phase = .error ∧ t.err = .allocationError) ∧
    (t.desc.width.toNat * t.desc.height.toNat * t.desc.channels.toNat ≤ s.cfg.outCapacity →
      t.err = .noError ∧ t.pos = 0#64 ∧
      t.phase = if t.desc.width.toNat * t.desc.height.toNat = 0 then .done else .pixels)

/-- R92: the header step touches neither px, run, cache nor pos, writes no OUT byte, and leaves HEADER. -/
def Obligations.HeaderStepKeepsDatapathAndOutput : Prop :=
  ∀ s : State, s.AtHeaderStep →
    ∃ t, step s = .next t ∧ t.px = s.px ∧ t.run = s.run ∧ t.cache = s.cache ∧ t.pos = s.pos ∧ t.len = s.len ∧
      t.inLength = s.inLength ∧ t.inMem = s.inMem ∧ t.outMem = s.outMem ∧ t.cfg = s.cfg ∧ t.port = s.port ∧
      (t.phase = .pixels ∨ t.phase = .done ∨ t.phase = .error)

/-! ### Errors and completion (60_exceptions.md) -/

/-- R156: the error entry writes STATUS.ERR and the phase and nothing else, with the codes of R150, and no step follows in ERROR. -/
def Obligations.ErrorEntryWritesStatusOnly : Prop :=
  (∀ (k : ErrKind) (s : State), (s.raise k).err = k ∧ (s.raise k).statusState = 3#2 ∧
    (s.raise k).setPhase s.phase = { s with err := k } ∧
    (s.port.pending = [] → step (s.raise k) = .next (s.raise k))) ∧
  ErrKind.code .noError = 0#3 ∧ ErrKind.code .formatError = 1#3 ∧ ErrKind.code .allocationError = 2#3 ∧
  ErrKind.code .outOfBoundsRead = 3#3 ∧ ErrKind.code .channelsError = 4#3

/-- R27, R158, R166: in IDLE, DONE and ERROR the decoder has no step. That the model's step then leaves the state as it is
is the model's choice (log 9). -/
def Obligations.DecoderRestsOutsideADecode : Prop :=
  ∀ s : State, s.port.pending = [] → s.busy = false → step s = .next s

/-- R32: in every state that meets the invariant, STATUS.ERR reads non-zero exactly when STATUS.STATE reads ERROR. -/
def Obligations.ErrorCodeIsNonZeroExactlyInError : Prop :=
  ∀ s : State, s.Inv → (s.err.code ≠ 0#3 ↔ s.statusState = 3#2)

/-! ### The host (10_state.md section 3, 20_memory.md, 70_reset_and_hazards.md) -/

/-- R29 to R37: what a host read of each control field returns, with the codes of STATUS.STATE and STATUS.ERR (R31, R32), and that BUSY
is exactly HEADER or PIXELS; the read changes nothing of the block. -/
def Obligations.HostReadsTheControlFields : Prop :=
  ∀ (s : State) (r : HostReg) (ms : List HostMove), s.port.pending = .readReg r :: ms →
    (s.busy = true ↔ s.phase = .header ∨ s.phase = .pixels) ∧
    ∃ t, step s = .next t ∧ { t with port := s.port } = s ∧ t.port.pending = ms ∧
      t.port.returned.toNat =
        match r with
        | .ctrlStart => 0
        | .inLength => s.inLength.toNat
        | .statusState =>
          (match s.phase with
          | .idle => 0
          | .header => 1
          | .pixels => 1
          | .done => 2
          | .error => 3)
        | .statusErr =>
          (match s.err with
          | .noError => 0
          | .formatError => 1
          | .allocationError => 2
          | .outOfBoundsRead => 3
          | .channelsError => 4)
        | .descWidth => s.desc.width.toNat
        | .descHeight => s.desc.height.toNat
        | .descChannels => s.desc.channels.toNat
        | .descColorspace => s.desc.colorspace.toNat
        | .obsPos => s.pos.toNat
        | .obsCursor => s.cur.toNat

/-- R26, R30: a write of IN_LENGTH is taken at any time and changes nothing else, the latched length included. -/
def Obligations.InLengthWriteLeavesTheLatchedLength : Prop :=
  ∀ (s : State) (v : BitVec 64) (ms : List HostMove), s.port.pending = .writeReg .inLength v :: ms →
    ∃ t, step s = .next t ∧ t.inLength = v ∧ t.len = s.len ∧ { t with inLength := s.inLength, port := s.port } = s

/-- R20: no host move but START, reset and yielding to the decoder changes the decoder's state. -/
def Obligations.HostMovesLeaveTheDecoderAlone : Prop :=
  ∀ (m : HostMove) (s t : State), m ≠ .reset → m ≠ .yield → (∀ v, m ≠ .writeReg .ctrlStart v) → hostMove m s = .next t →
    t.px = s.px ∧ t.run = s.run ∧ t.cache = s.cache ∧ t.cur = s.cur ∧ t.pos = s.pos ∧ t.len = s.len ∧ t.phase = s.phase ∧
    t.err = s.err ∧ t.desc = s.desc ∧ t.cfg = s.cfg

/-- R61: outside a decode a host read of an OUT offset that exists returns the byte there. -/
def Obligations.HostReadsOutputAfterCompletion : Prop :=
  ∀ (s : State) (a : BitVec 64) (ms : List HostMove), s.busy = false → a.toNat < s.cfg.outCapacity →
    s.port.pending = .readOut a :: ms →
    ∃ t, step s = .next t ∧ t.port.returned.toNat = (s.outByte a.toNat).toNat ∧ t.outMem = s.outMem

/-- R61, R174 (93_implementation_defined.md I5): while BUSY a host read of an OUT offset that exists completes, with a value that is
free, and changes nothing of the block. -/
def Obligations.HostReadOfOutputWhileBusyCompletes : Prop :=
  ∀ (s : State) (a : BitVec 64) (ms : List HostMove), s.busy = true → a.toNat < s.cfg.outCapacity →
    s.port.pending = .readOut a :: ms →
    ∃ t, step s = .next t ∧ { t with port := s.port } = s ∧ t.port.pending = ms ∧
      t.port.busyReads = s.port.busyReads + 1 ∧ t.port.outEpoch = s.port.outEpoch

/-- R51: a host access to an OUT offset that does not exist stops with the fault of that name, BUSY or not. -/
def Obligations.HostAccessOutsideOutputMemoryFaults : Prop :=
  ∀ (s : State) (a : BitVec 64) (b : Byte), s.cfg.outCapacity ≤ a.toNat →
    hostMove (.readOut a) s = .fault .outOffsetAbsent ∧ hostMove (.writeOut a b) s = .fault .outOffsetAbsent

/-- R64, R173, R174 (93_implementation_defined.md I6): while BUSY the machine refuses a host write of IN below `len` and of any
OUT byte. That it takes a host write of IN at or above `len` is the model's choice (DEDUCED, log 13): R173 forbids only the
offsets below `len` and does not say that others are taken. -/
def Obligations.HostWritesAreRefusedWhileBusy : Prop :=
  ∀ (s : State) (a : BitVec 64) (b : Byte), s.busy = true →
    (a.toNat < s.len.toNat → hostMove (.writeIn a b) s = .refused .hostWritesInputWhileBusy) ∧
    (s.len.toNat ≤ a.toNat → ∃ t, hostMove (.writeIn a b) s = .next t ∧ t.inByte a.toNat = b ∧
      ∀ k, k ≠ a.toNat → t.inByte k = s.inByte k) ∧
    (a.toNat < s.cfg.outCapacity → hostMove (.writeOut a b) s = .refused .hostWritesOutputWhileBusy)

/-- R170, R171: reset in any state, a running decode included, puts every field at its reset value, leaves IN as it is, and no OUT
byte written before it is listed any more. -/
def Obligations.ResetRestoresTheResetValues : Prop :=
  ∀ (s : State) (ms : List HostMove), s.port.pending = .reset :: ms →
    ∃ t, step s = .next t ∧ t.phase = .idle ∧ t.err = .noError ∧ t.inLength = 0#64 ∧ t.desc = ⟨0#32, 0#32, 0#8, 0#8⟩ ∧
      t.pos = 0#64 ∧ t.cur = 0#64 ∧ t.len = 0#64 ∧ t.px = s.cfg.initPixel ∧ t.run = 0#6 ∧
      (∀ k, t.cache.get k = ⟨0#8, 0#8, 0#8, 0#8⟩) ∧ t.inMem = s.inMem ∧ t.outMem = [] ∧ t.cfg = s.cfg ∧ t.port.pending = ms

/-- R170: the values the spec gives for reset, for every choice of the parameters. -/
def Obligations.ResetStateHasTheSpecsValues : Prop :=
  ∀ c : Config,
    let s := State.resetWith c
    s.phase = .idle ∧ s.statusState = 0#2 ∧ s.err.code = 0#3 ∧ s.inLength = 0#64 ∧ s.desc = ⟨0#32, 0#32, 0#8, 0#8⟩ ∧
      s.pos = 0#64 ∧ s.cur = 0#64 ∧ s.len = 0#64 ∧ s.px = c.initPixel ∧ s.run = 0#6 ∧
      (∀ k, s.cache.get k = ⟨0#8, 0#8, 0#8, 0#8⟩)

/-! ### The whole machine -/

/-- The invariant holds right after reset, whatever the parameters. -/
def Obligations.InvariantHoldsAtReset : Prop := (∀ c : Config, (State.resetWith c).Inv) ∧ State.reset.Inv

/-- Every step, the host's or the decoder's, keeps the invariant. -/
def Obligations.EveryStepKeepsTheInvariant : Prop := ∀ s t : State, s.Inv → step s = .next t → t.Inv

/-- R59, R82: from a state that meets the invariant the decoder never stops with a fault or a refusal. -/
def Obligations.DecoderStepsNeverStop : Prop := ∀ s : State, s.Inv → s.port.pending = [] → ∃ t, step s = .next t

/-- R118, R179: from PIXELS the decoder reaches DONE after exactly the positions that remain, unless OutOfBoundsRead ends it
earlier, at the position it could not produce. -/
def Obligations.PixelStepsReachDoneOrOutOfBoundsRead : Prop :=
  ∀ s : State, s.Inv → s.AtPixelStep →
    ∃ (k : Nat) (t : State), Host.Core.run Sys2Proof.core k s = .next t ∧
      ((t.phase = .done ∧ k = s.npix - s.pos.toNat ∧ t.pos.toNat = s.npix) ∨
        (t.phase = .error ∧ t.err = .outOfBoundsRead ∧ k ≤ s.npix - s.pos.toNat ∧ t.pos.toNat + 1 = s.pos.toNat + k))

/-- R179: a decode takes at most 1 + npix decoder steps from START to DONE or ERROR. -/
def Obligations.EveryDecodeTerminates : Prop :=
  ∀ s : State, s.Inv → s.AtHeaderStep →
    ∃ (k : Nat) (t : State), Host.Core.run Sys2Proof.core k s = .next t ∧ (t.phase = .done ∨ t.phase = .error) ∧
      k ≤ 1 + t.npix

/-- R66: the decoder never reads IN at or above `len`: two states that differ only there take the same step. -/
def Obligations.InputAtOrAboveTheLengthIsNeverRead : Prop :=
  ∀ (s t : State) (m : Memory), s.Inv → s.port.pending = [] →
    (∀ a, a < s.len.toNat → (s.setIn m).inByte a = s.inByte a) →
    step s = .next t → step (s.setIn m) = .next (t.setIn m)

/-- R65, R119: nothing of an earlier decode but the OUT bytes survives START. -/
def Obligations.StartForgetsTheEarlierDecode : Prop :=
  ∀ (s u : State) (ms : List HostMove), s.busy = false → u.busy = false →
    s.cfg = u.cfg → s.inLength = u.inLength → s.inMem = u.inMem → s.outMem = u.outMem → s.port = u.port →
    s.port.pending = .writeReg .ctrlStart 1#64 :: ms → step s = step u

/-- R10: the hash, and that an 8-bit adder tree gives the same slot. -/
def Obligations.HashIsTheSameInEightBits : Prop :=
  ∀ p : Pixel,
    (pixelHash p).val = (p.r.toNat * 3 + p.g.toNat * 5 + p.b.toNat * 7 + p.a.toNat * 11) % 64 ∧ (pixelHash p).val < 64 ∧
    (pixelHash p).val = (p.r * 3#8 + p.g * 5#8 + p.b * 7#8 + p.a * 11#8).toNat % 64

/-- R50, R51: what a host write of IN or OUT stores is what that offset then reads as, and no other offset
changes, outside a decode. -/
def Obligations.HostWritesStoreOneByte : Prop :=
  ∀ (s : State) (a : BitVec 64) (b : Byte), s.busy = false →
    (∃ t, hostMove (.writeIn a b) s = .next t ∧ t.inByte a.toNat = b ∧ (∀ k, k ≠ a.toNat → t.inByte k = s.inByte k) ∧
      ∀ k, t.outByte k = s.outByte k) ∧
    (a.toNat < s.cfg.outCapacity →
      ∃ t, hostMove (.writeOut a b) s = .next t ∧ t.outByte a.toNat = b ∧ (∀ k, k ≠ a.toNat → t.outByte k = s.outByte k) ∧
        ∀ k, t.inByte k = s.inByte k)
end

