-- ==== Sys2Proof/Laws/Operands.lean ====
section
/-! SUPPORT. What the operand and status functions compute, as numbers. -/

namespace Sys2Proof

/-- A delta has a biased field exactly when the biased value fits. -/
theorem biasedField_isSome (w b : Nat) (d : Int) : (biasedField w b d).isSome = true ↔ 0 ≤ d + b ∧ d + b < 2 ^ w := by
  simp only [biasedField]
  split <;> simp_all

/-- The field of a delta is the delta plus its bias. -/
theorem biasedField_toNat {w b : Nat} {d : Int} {f : BitVec w} (h : biasedField w b d = some f) : (f.toNat : Int) = d + b := by
  simp only [biasedField] at h
  split at h
  · rename_i hr
    cases h
    have hm : (d + b) % ((2 ^ w : Nat) : Int) = d + b := Int.emod_eq_of_lt hr.1 (by exact_mod_cast hr.2)
    rw [BitVec.toNat_ofInt, hm]
    omega
  · cases h

end Sys2Proof

namespace Sys2Proof.Machine

/-- The channel sum as an exact integer modulo 256. -/
theorem addDelta_toNat (c : Byte) (d : Int) : ((addDelta c d).toNat : Int) = ((c.toNat : Int) + d) % 256 := by
  simp only [addDelta, BitVec.toNat_ofInt]
  omega

@[simp] theorem addDeltas_alpha (p : Pixel) (dr dg db : Int) : (addDeltas p dr dg db).a = p.a := rfl
@[simp] theorem addDeltas_red (p : Pixel) (dr dg db : Int) : (addDeltas p dr dg db).r = addDelta p.r dr := rfl
@[simp] theorem addDeltas_green (p : Pixel) (dr dg db : Int) : (addDeltas p dr dg db).g = addDelta p.g dg := rfl
@[simp] theorem addDeltas_blue (p : Pixel) (dr dg db : Int) : (addDeltas p dr dg db).b = addDelta p.b db := rfl

theorem pixelHash_val (p : Pixel) :
    (pixelHash p).val = (p.r.toNat * 3 + p.g.toNat * 5 + p.b.toNat * 7 + p.a.toNat * 11) % 64 := rfl

@[simp] theorem pixelHash_zero : pixelHash Pixel.zero = 0 := by decide

/-- The big-endian word as a number (spec 00_scope.md R8). -/
theorem be32_toNat (b0 b1 b2 b3 : Byte) :
    (be32 b0 b1 b2 b3).toNat = b0.toNat * 2 ^ 24 + b1.toNat * 2 ^ 16 + b2.toNat * 2 ^ 8 + b3.toNat := by
  have h0 := b0.isLt
  have h1 := b1.isLt
  have h2 := b2.isLt
  have h3 := b3.isLt
  simp only [be32, BitVec.toNat_append, Nat.shiftLeft_eq]
  rw [← Nat.shiftLeft_eq, ← Nat.shiftLeft_eq, ← Nat.shiftLeft_eq,
    ← Nat.shiftLeft_add_eq_or_of_lt h1, ← Nat.shiftLeft_add_eq_or_of_lt h2, ← Nat.shiftLeft_add_eq_or_of_lt h3]
  simp only [Nat.shiftLeft_eq]
  omega

@[simp] theorem outBytes_three (p : Pixel) : outBytes 3 p = [p.r, p.g, p.b] := rfl
@[simp] theorem outBytes_four (p : Pixel) : outBytes 4 p = [p.r, p.g, p.b, p.a] := rfl

theorem outBytes_length_le (c : Nat) (p : Pixel) : (outBytes c p).length ≤ c := by
  simp only [outBytes, List.length_take]
  omega

theorem busy_iff (p : Phase) : p.busy = true ↔ p = .header ∨ p = .pixels := by cases p <;> simp [Phase.busy]

end Sys2Proof.Machine
end

