-- ==== Sys2Proof/Laws/State.lean ====
section
/-! SUPPORT. One lemma per field (and per computed view it leaves alone) of each named update of State. -/

namespace Sys2Proof.Machine

variable (s : State)

@[simp] theorem State.raise_px (k : ErrKind) : (s.raise k).px = s.px := rfl
@[simp] theorem State.raise_run (k : ErrKind) : (s.raise k).run = s.run := rfl
@[simp] theorem State.raise_cache (k : ErrKind) : (s.raise k).cache = s.cache := rfl
@[simp] theorem State.raise_cur (k : ErrKind) : (s.raise k).cur = s.cur := rfl
@[simp] theorem State.raise_pos (k : ErrKind) : (s.raise k).pos = s.pos := rfl
@[simp] theorem State.raise_len (k : ErrKind) : (s.raise k).len = s.len := rfl
@[simp] theorem State.raise_phase (k : ErrKind) : (s.raise k).phase = .error := rfl
@[simp] theorem State.raise_inLength (k : ErrKind) : (s.raise k).inLength = s.inLength := rfl
@[simp] theorem State.raise_err (k : ErrKind) : (s.raise k).err = k := rfl
@[simp] theorem State.raise_desc (k : ErrKind) : (s.raise k).desc = s.desc := rfl
@[simp] theorem State.raise_inMem (k : ErrKind) : (s.raise k).inMem = s.inMem := rfl
@[simp] theorem State.raise_outMem (k : ErrKind) : (s.raise k).outMem = s.outMem := rfl
@[simp] theorem State.raise_cfg (k : ErrKind) : (s.raise k).cfg = s.cfg := rfl
@[simp] theorem State.raise_port (k : ErrKind) : (s.raise k).port = s.port := rfl
@[simp] theorem State.raise_chunkEnd (k : ErrKind) : (s.raise k).chunkEnd = s.chunkEnd := rfl
@[simp] theorem State.raise_npix (k : ErrKind) : (s.raise k).npix = s.npix := rfl
@[simp] theorem State.raise_outBase (k : ErrKind) : (s.raise k).outBase = s.outBase := rfl
@[simp] theorem State.raise_positionFits (k : ErrKind) : (s.raise k).positionFits = s.positionFits := rfl
@[simp] theorem State.raise_inByte (k : ErrKind) (a : Nat) : (s.raise k).inByte a = s.inByte a := rfl
@[simp] theorem State.raise_outByte (k : ErrKind) (a : Nat) : (s.raise k).outByte a = s.outByte a := rfl

@[simp] theorem State.setPx_px (p : Pixel) : (s.setPx p).px = p := rfl
@[simp] theorem State.setPx_run (p : Pixel) : (s.setPx p).run = s.run := rfl
@[simp] theorem State.setPx_cache (p : Pixel) : (s.setPx p).cache = s.cache := rfl
@[simp] theorem State.setPx_cur (p : Pixel) : (s.setPx p).cur = s.cur := rfl
@[simp] theorem State.setPx_pos (p : Pixel) : (s.setPx p).pos = s.pos := rfl
@[simp] theorem State.setPx_len (p : Pixel) : (s.setPx p).len = s.len := rfl
@[simp] theorem State.setPx_phase (p : Pixel) : (s.setPx p).phase = s.phase := rfl
@[simp] theorem State.setPx_inLength (p : Pixel) : (s.setPx p).inLength = s.inLength := rfl
@[simp] theorem State.setPx_err (p : Pixel) : (s.setPx p).err = s.err := rfl
@[simp] theorem State.setPx_desc (p : Pixel) : (s.setPx p).desc = s.desc := rfl
@[simp] theorem State.setPx_inMem (p : Pixel) : (s.setPx p).inMem = s.inMem := rfl
@[simp] theorem State.setPx_outMem (p : Pixel) : (s.setPx p).outMem = s.outMem := rfl
@[simp] theorem State.setPx_cfg (p : Pixel) : (s.setPx p).cfg = s.cfg := rfl
@[simp] theorem State.setPx_port (p : Pixel) : (s.setPx p).port = s.port := rfl
@[simp] theorem State.setPx_chunkEnd (p : Pixel) : (s.setPx p).chunkEnd = s.chunkEnd := rfl
@[simp] theorem State.setPx_npix (p : Pixel) : (s.setPx p).npix = s.npix := rfl
@[simp] theorem State.setPx_outBase (p : Pixel) : (s.setPx p).outBase = s.outBase := rfl
@[simp] theorem State.setPx_positionFits (p : Pixel) : (s.setPx p).positionFits = s.positionFits := rfl
@[simp] theorem State.setPx_busy (p : Pixel) : (s.setPx p).busy = s.busy := rfl
@[simp] theorem State.setPx_inByte (p : Pixel) (a : Nat) : (s.setPx p).inByte a = s.inByte a := rfl
@[simp] theorem State.setPx_outByte (p : Pixel) (a : Nat) : (s.setPx p).outByte a = s.outByte a := rfl

@[simp] theorem State.setRun_px (f : BitVec 6) : (s.setRun f).px = s.px := rfl
@[simp] theorem State.setRun_run (f : BitVec 6) : (s.setRun f).run = f := rfl
@[simp] theorem State.setRun_cache (f : BitVec 6) : (s.setRun f).cache = s.cache := rfl
@[simp] theorem State.setRun_cur (f : BitVec 6) : (s.setRun f).cur = s.cur := rfl
@[simp] theorem State.setRun_pos (f : BitVec 6) : (s.setRun f).pos = s.pos := rfl
@[simp] theorem State.setRun_len (f : BitVec 6) : (s.setRun f).len = s.len := rfl
@[simp] theorem State.setRun_phase (f : BitVec 6) : (s.setRun f).phase = s.phase := rfl
@[simp] theorem State.setRun_inLength (f : BitVec 6) : (s.setRun f).inLength = s.inLength := rfl
@[simp] theorem State.setRun_err (f : BitVec 6) : (s.setRun f).err = s.err := rfl
@[simp] theorem State.setRun_desc (f : BitVec 6) : (s.setRun f).desc = s.desc := rfl
@[simp] theorem State.setRun_inMem (f : BitVec 6) : (s.setRun f).inMem = s.inMem := rfl
@[simp] theorem State.setRun_outMem (f : BitVec 6) : (s.setRun f).outMem = s.outMem := rfl
@[simp] theorem State.setRun_cfg (f : BitVec 6) : (s.setRun f).cfg = s.cfg := rfl
@[simp] theorem State.setRun_port (f : BitVec 6) : (s.setRun f).port = s.port := rfl
@[simp] theorem State.setRun_chunkEnd (f : BitVec 6) : (s.setRun f).chunkEnd = s.chunkEnd := rfl
@[simp] theorem State.setRun_npix (f : BitVec 6) : (s.setRun f).npix = s.npix := rfl
@[simp] theorem State.setRun_outBase (f : BitVec 6) : (s.setRun f).outBase = s.outBase := rfl
@[simp] theorem State.setRun_positionFits (f : BitVec 6) : (s.setRun f).positionFits = s.positionFits := rfl
@[simp] theorem State.setRun_busy (f : BitVec 6) : (s.setRun f).busy = s.busy := rfl
@[simp] theorem State.setRun_inByte (f : BitVec 6) (a : Nat) : (s.setRun f).inByte a = s.inByte a := rfl
@[simp] theorem State.setRun_outByte (f : BitVec 6) (a : Nat) : (s.setRun f).outByte a = s.outByte a := rfl

@[simp] theorem State.setCur_px (c : BitVec 64) : (s.setCur c).px = s.px := rfl
@[simp] theorem State.setCur_run (c : BitVec 64) : (s.setCur c).run = s.run := rfl
@[simp] theorem State.setCur_cache (c : BitVec 64) : (s.setCur c).cache = s.cache := rfl
@[simp] theorem State.setCur_cur (c : BitVec 64) : (s.setCur c).cur = c := rfl
@[simp] theorem State.setCur_pos (c : BitVec 64) : (s.setCur c).pos = s.pos := rfl
@[simp] theorem State.setCur_len (c : BitVec 64) : (s.setCur c).len = s.len := rfl
@[simp] theorem State.setCur_phase (c : BitVec 64) : (s.setCur c).phase = s.phase := rfl
@[simp] theorem State.setCur_inLength (c : BitVec 64) : (s.setCur c).inLength = s.inLength := rfl
@[simp] theorem State.setCur_err (c : BitVec 64) : (s.setCur c).err = s.err := rfl
@[simp] theorem State.setCur_desc (c : BitVec 64) : (s.setCur c).desc = s.desc := rfl
@[simp] theorem State.setCur_inMem (c : BitVec 64) : (s.setCur c).inMem = s.inMem := rfl
@[simp] theorem State.setCur_outMem (c : BitVec 64) : (s.setCur c).outMem = s.outMem := rfl
@[simp] theorem State.setCur_cfg (c : BitVec 64) : (s.setCur c).cfg = s.cfg := rfl
@[simp] theorem State.setCur_port (c : BitVec 64) : (s.setCur c).port = s.port := rfl
@[simp] theorem State.setCur_chunkEnd (c : BitVec 64) : (s.setCur c).chunkEnd = s.chunkEnd := rfl
@[simp] theorem State.setCur_npix (c : BitVec 64) : (s.setCur c).npix = s.npix := rfl
@[simp] theorem State.setCur_outBase (c : BitVec 64) : (s.setCur c).outBase = s.outBase := rfl
@[simp] theorem State.setCur_positionFits (c : BitVec 64) : (s.setCur c).positionFits = s.positionFits := rfl
@[simp] theorem State.setCur_busy (c : BitVec 64) : (s.setCur c).busy = s.busy := rfl
@[simp] theorem State.setCur_inByte (c : BitVec 64) (a : Nat) : (s.setCur c).inByte a = s.inByte a := rfl
@[simp] theorem State.setCur_outByte (c : BitVec 64) (a : Nat) : (s.setCur c).outByte a = s.outByte a := rfl

@[simp] theorem State.advance_px (n : Nat) : (s.advance n).px = s.px := rfl
@[simp] theorem State.advance_run (n : Nat) : (s.advance n).run = s.run := rfl
@[simp] theorem State.advance_cache (n : Nat) : (s.advance n).cache = s.cache := rfl
@[simp] theorem State.advance_cur (n : Nat) : (s.advance n).cur = s.cur + BitVec.ofNat 64 n := rfl
@[simp] theorem State.advance_pos (n : Nat) : (s.advance n).pos = s.pos := rfl
@[simp] theorem State.advance_len (n : Nat) : (s.advance n).len = s.len := rfl
@[simp] theorem State.advance_phase (n : Nat) : (s.advance n).phase = s.phase := rfl
@[simp] theorem State.advance_inLength (n : Nat) : (s.advance n).inLength = s.inLength := rfl
@[simp] theorem State.advance_err (n : Nat) : (s.advance n).err = s.err := rfl
@[simp] theorem State.advance_desc (n : Nat) : (s.advance n).desc = s.desc := rfl
@[simp] theorem State.advance_inMem (n : Nat) : (s.advance n).inMem = s.inMem := rfl
@[simp] theorem State.advance_outMem (n : Nat) : (s.advance n).outMem = s.outMem := rfl
@[simp] theorem State.advance_cfg (n : Nat) : (s.advance n).cfg = s.cfg := rfl
@[simp] theorem State.advance_port (n : Nat) : (s.advance n).port = s.port := rfl
@[simp] theorem State.advance_chunkEnd (n : Nat) : (s.advance n).chunkEnd = s.chunkEnd := rfl
@[simp] theorem State.advance_npix (n : Nat) : (s.advance n).npix = s.npix := rfl
@[simp] theorem State.advance_outBase (n : Nat) : (s.advance n).outBase = s.outBase := rfl
@[simp] theorem State.advance_positionFits (n : Nat) : (s.advance n).positionFits = s.positionFits := rfl
@[simp] theorem State.advance_busy (n : Nat) : (s.advance n).busy = s.busy := rfl
@[simp] theorem State.advance_inByte (n : Nat) (a : Nat) : (s.advance n).inByte a = s.inByte a := rfl
@[simp] theorem State.advance_outByte (n : Nat) (a : Nat) : (s.advance n).outByte a = s.outByte a := rfl

@[simp] theorem State.insertPx_px : (s.insertPx).px = s.px := rfl
@[simp] theorem State.insertPx_run : (s.insertPx).run = s.run := rfl
@[simp] theorem State.insertPx_cache : (s.insertPx).cache = s.cache.set (pixelHash s.px) s.px := rfl
@[simp] theorem State.insertPx_cur : (s.insertPx).cur = s.cur := rfl
@[simp] theorem State.insertPx_pos : (s.insertPx).pos = s.pos := rfl
@[simp] theorem State.insertPx_len : (s.insertPx).len = s.len := rfl
@[simp] theorem State.insertPx_phase : (s.insertPx).phase = s.phase := rfl
@[simp] theorem State.insertPx_inLength : (s.insertPx).inLength = s.inLength := rfl
@[simp] theorem State.insertPx_err : (s.insertPx).err = s.err := rfl
@[simp] theorem State.insertPx_desc : (s.insertPx).desc = s.desc := rfl
@[simp] theorem State.insertPx_inMem : (s.insertPx).inMem = s.inMem := rfl
@[simp] theorem State.insertPx_outMem : (s.insertPx).outMem = s.outMem := rfl
@[simp] theorem State.insertPx_cfg : (s.insertPx).cfg = s.cfg := rfl
@[simp] theorem State.insertPx_port : (s.insertPx).port = s.port := rfl
@[simp] theorem State.insertPx_chunkEnd : (s.insertPx).chunkEnd = s.chunkEnd := rfl
@[simp] theorem State.insertPx_npix : (s.insertPx).npix = s.npix := rfl
@[simp] theorem State.insertPx_outBase : (s.insertPx).outBase = s.outBase := rfl
@[simp] theorem State.insertPx_positionFits : (s.insertPx).positionFits = s.positionFits := rfl
@[simp] theorem State.insertPx_busy : (s.insertPx).busy = s.busy := rfl
@[simp] theorem State.insertPx_inByte (a : Nat) : (s.insertPx).inByte a = s.inByte a := rfl
@[simp] theorem State.insertPx_outByte (a : Nat) : (s.insertPx).outByte a = s.outByte a := rfl

@[simp] theorem State.setDesc_px (d : Descriptor) : (s.setDesc d).px = s.px := rfl
@[simp] theorem State.setDesc_run (d : Descriptor) : (s.setDesc d).run = s.run := rfl
@[simp] theorem State.setDesc_cache (d : Descriptor) : (s.setDesc d).cache = s.cache := rfl
@[simp] theorem State.setDesc_cur (d : Descriptor) : (s.setDesc d).cur = s.cur := rfl
@[simp] theorem State.setDesc_pos (d : Descriptor) : (s.setDesc d).pos = s.pos := rfl
@[simp] theorem State.setDesc_len (d : Descriptor) : (s.setDesc d).len = s.len := rfl
@[simp] theorem State.setDesc_phase (d : Descriptor) : (s.setDesc d).phase = s.phase := rfl
@[simp] theorem State.setDesc_inLength (d : Descriptor) : (s.setDesc d).inLength = s.inLength := rfl
@[simp] theorem State.setDesc_err (d : Descriptor) : (s.setDesc d).err = s.err := rfl
@[simp] theorem State.setDesc_desc (d : Descriptor) : (s.setDesc d).desc = d := rfl
@[simp] theorem State.setDesc_inMem (d : Descriptor) : (s.setDesc d).inMem = s.inMem := rfl
@[simp] theorem State.setDesc_outMem (d : Descriptor) : (s.setDesc d).outMem = s.outMem := rfl
@[simp] theorem State.setDesc_cfg (d : Descriptor) : (s.setDesc d).cfg = s.cfg := rfl
@[simp] theorem State.setDesc_port (d : Descriptor) : (s.setDesc d).port = s.port := rfl
@[simp] theorem State.setDesc_chunkEnd (d : Descriptor) : (s.setDesc d).chunkEnd = s.chunkEnd := rfl
@[simp] theorem State.setDesc_busy (d : Descriptor) : (s.setDesc d).busy = s.busy := rfl
@[simp] theorem State.setDesc_inByte (d : Descriptor) (a : Nat) : (s.setDesc d).inByte a = s.inByte a := rfl
@[simp] theorem State.setDesc_outByte (d : Descriptor) (a : Nat) : (s.setDesc d).outByte a = s.outByte a := rfl

@[simp] theorem State.setPhase_px (p : Phase) : (s.setPhase p).px = s.px := rfl
@[simp] theorem State.setPhase_run (p : Phase) : (s.setPhase p).run = s.run := rfl
@[simp] theorem State.setPhase_cache (p : Phase) : (s.setPhase p).cache = s.cache := rfl
@[simp] theorem State.setPhase_cur (p : Phase) : (s.setPhase p).cur = s.cur := rfl
@[simp] theorem State.setPhase_pos (p : Phase) : (s.setPhase p).pos = s.pos := rfl
@[simp] theorem State.setPhase_len (p : Phase) : (s.setPhase p).len = s.len := rfl
@[simp] theorem State.setPhase_phase (p : Phase) : (s.setPhase p).phase = p := rfl
@[simp] theorem State.setPhase_inLength (p : Phase) : (s.setPhase p).inLength = s.inLength := rfl
@[simp] theorem State.setPhase_err (p : Phase) : (s.setPhase p).err = s.err := rfl
@[simp] theorem State.setPhase_desc (p : Phase) : (s.setPhase p).desc = s.desc := rfl
@[simp] theorem State.setPhase_inMem (p : Phase) : (s.setPhase p).inMem = s.inMem := rfl
@[simp] theorem State.setPhase_outMem (p : Phase) : (s.setPhase p).outMem = s.outMem := rfl
@[simp] theorem State.setPhase_cfg (p : Phase) : (s.setPhase p).cfg = s.cfg := rfl
@[simp] theorem State.setPhase_port (p : Phase) : (s.setPhase p).port = s.port := rfl
@[simp] theorem State.setPhase_chunkEnd (p : Phase) : (s.setPhase p).chunkEnd = s.chunkEnd := rfl
@[simp] theorem State.setPhase_npix (p : Phase) : (s.setPhase p).npix = s.npix := rfl
@[simp] theorem State.setPhase_outBase (p : Phase) : (s.setPhase p).outBase = s.outBase := rfl
@[simp] theorem State.setPhase_positionFits (p : Phase) : (s.setPhase p).positionFits = s.positionFits := rfl
@[simp] theorem State.setPhase_inByte (p : Phase) (a : Nat) : (s.setPhase p).inByte a = s.inByte a := rfl
@[simp] theorem State.setPhase_outByte (p : Phase) (a : Nat) : (s.setPhase p).outByte a = s.outByte a := rfl

@[simp] theorem State.writeOutput_px : (s.writeOutput).px = s.px := rfl
@[simp] theorem State.writeOutput_run : (s.writeOutput).run = s.run := rfl
@[simp] theorem State.writeOutput_cache : (s.writeOutput).cache = s.cache := rfl
@[simp] theorem State.writeOutput_cur : (s.writeOutput).cur = s.cur := rfl
@[simp] theorem State.writeOutput_pos : (s.writeOutput).pos = s.pos := rfl
@[simp] theorem State.writeOutput_len : (s.writeOutput).len = s.len := rfl
@[simp] theorem State.writeOutput_phase : (s.writeOutput).phase = s.phase := rfl
@[simp] theorem State.writeOutput_inLength : (s.writeOutput).inLength = s.inLength := rfl
@[simp] theorem State.writeOutput_err : (s.writeOutput).err = s.err := rfl
@[simp] theorem State.writeOutput_desc : (s.writeOutput).desc = s.desc := rfl
@[simp] theorem State.writeOutput_inMem : (s.writeOutput).inMem = s.inMem := rfl
@[simp] theorem State.writeOutput_outMem : (s.writeOutput).outMem = Memory.writeAll s.outMem s.outBase (outBytes s.desc.channels.toNat s.px) := rfl
@[simp] theorem State.writeOutput_cfg : (s.writeOutput).cfg = s.cfg := rfl
@[simp] theorem State.writeOutput_port : (s.writeOutput).port = s.port := rfl
@[simp] theorem State.writeOutput_chunkEnd : (s.writeOutput).chunkEnd = s.chunkEnd := rfl
@[simp] theorem State.writeOutput_npix : (s.writeOutput).npix = s.npix := rfl
@[simp] theorem State.writeOutput_outBase : (s.writeOutput).outBase = s.outBase := rfl
@[simp] theorem State.writeOutput_positionFits : (s.writeOutput).positionFits = s.positionFits := rfl
@[simp] theorem State.writeOutput_busy : (s.writeOutput).busy = s.busy := rfl
@[simp] theorem State.writeOutput_inByte (a : Nat) : (s.writeOutput).inByte a = s.inByte a := rfl

@[simp] theorem State.nextPosition_px : (s.nextPosition).px = s.px := rfl
@[simp] theorem State.nextPosition_run : (s.nextPosition).run = s.run := rfl
@[simp] theorem State.nextPosition_cache : (s.nextPosition).cache = s.cache := rfl
@[simp] theorem State.nextPosition_cur : (s.nextPosition).cur = s.cur := rfl
@[simp] theorem State.nextPosition_pos : (s.nextPosition).pos = s.pos + 1#64 := rfl
@[simp] theorem State.nextPosition_len : (s.nextPosition).len = s.len := rfl
@[simp] theorem State.nextPosition_phase : (s.nextPosition).phase = if s.pos.toNat + 1 = s.npix then .done else s.phase := rfl
@[simp] theorem State.nextPosition_inLength : (s.nextPosition).inLength = s.inLength := rfl
@[simp] theorem State.nextPosition_err : (s.nextPosition).err = s.err := rfl
@[simp] theorem State.nextPosition_desc : (s.nextPosition).desc = s.desc := rfl
@[simp] theorem State.nextPosition_inMem : (s.nextPosition).inMem = s.inMem := rfl
@[simp] theorem State.nextPosition_outMem : (s.nextPosition).outMem = s.outMem := rfl
@[simp] theorem State.nextPosition_cfg : (s.nextPosition).cfg = s.cfg := rfl
@[simp] theorem State.nextPosition_port : (s.nextPosition).port = s.port := rfl
@[simp] theorem State.nextPosition_chunkEnd : (s.nextPosition).chunkEnd = s.chunkEnd := rfl
@[simp] theorem State.nextPosition_npix : (s.nextPosition).npix = s.npix := rfl
@[simp] theorem State.nextPosition_inByte (a : Nat) : (s.nextPosition).inByte a = s.inByte a := rfl
@[simp] theorem State.nextPosition_outByte (a : Nat) : (s.nextPosition).outByte a = s.outByte a := rfl

@[simp] theorem State.storeIn_px (a : BitVec 64) (b : Byte) : (s.storeIn a b).px = s.px := rfl
@[simp] theorem State.storeIn_run (a : BitVec 64) (b : Byte) : (s.storeIn a b).run = s.run := rfl
@[simp] theorem State.storeIn_cache (a : BitVec 64) (b : Byte) : (s.storeIn a b).cache = s.cache := rfl
@[simp] theorem State.storeIn_cur (a : BitVec 64) (b : Byte) : (s.storeIn a b).cur = s.cur := rfl
@[simp] theorem State.storeIn_pos (a : BitVec 64) (b : Byte) : (s.storeIn a b).pos = s.pos := rfl
@[simp] theorem State.storeIn_len (a : BitVec 64) (b : Byte) : (s.storeIn a b).len = s.len := rfl
@[simp] theorem State.storeIn_phase (a : BitVec 64) (b : Byte) : (s.storeIn a b).phase = s.phase := rfl
@[simp] theorem State.storeIn_inLength (a : BitVec 64) (b : Byte) : (s.storeIn a b).inLength = s.inLength := rfl
@[simp] theorem State.storeIn_err (a : BitVec 64) (b : Byte) : (s.storeIn a b).err = s.err := rfl
@[simp] theorem State.storeIn_desc (a : BitVec 64) (b : Byte) : (s.storeIn a b).desc = s.desc := rfl
@[simp] theorem State.storeIn_inMem (a : BitVec 64) (b : Byte) : (s.storeIn a b).inMem = Memory.write s.inMem a.toNat b := rfl
@[simp] theorem State.storeIn_outMem (a : BitVec 64) (b : Byte) : (s.storeIn a b).outMem = s.outMem := rfl
@[simp] theorem State.storeIn_cfg (a : BitVec 64) (b : Byte) : (s.storeIn a b).cfg = s.cfg := rfl
@[simp] theorem State.storeIn_port (a : BitVec 64) (b : Byte) : (s.storeIn a b).port = s.port := rfl
@[simp] theorem State.storeIn_chunkEnd (a : BitVec 64) (b : Byte) : (s.storeIn a b).chunkEnd = s.chunkEnd := rfl
@[simp] theorem State.storeIn_npix (a : BitVec 64) (b : Byte) : (s.storeIn a b).npix = s.npix := rfl
@[simp] theorem State.storeIn_outBase (a : BitVec 64) (b : Byte) : (s.storeIn a b).outBase = s.outBase := rfl
@[simp] theorem State.storeIn_positionFits (a : BitVec 64) (b : Byte) : (s.storeIn a b).positionFits = s.positionFits := rfl
@[simp] theorem State.storeIn_busy (a : BitVec 64) (b : Byte) : (s.storeIn a b).busy = s.busy := rfl
@[simp] theorem State.storeIn_outByte (a : BitVec 64) (b : Byte) (x : Nat) : (s.storeIn a b).outByte x = s.outByte x := rfl

@[simp] theorem State.setIn_px (m : Memory) : (s.setIn m).px = s.px := rfl
@[simp] theorem State.setIn_run (m : Memory) : (s.setIn m).run = s.run := rfl
@[simp] theorem State.setIn_cache (m : Memory) : (s.setIn m).cache = s.cache := rfl
@[simp] theorem State.setIn_cur (m : Memory) : (s.setIn m).cur = s.cur := rfl
@[simp] theorem State.setIn_pos (m : Memory) : (s.setIn m).pos = s.pos := rfl
@[simp] theorem State.setIn_len (m : Memory) : (s.setIn m).len = s.len := rfl
@[simp] theorem State.setIn_phase (m : Memory) : (s.setIn m).phase = s.phase := rfl
@[simp] theorem State.setIn_inLength (m : Memory) : (s.setIn m).inLength = s.inLength := rfl
@[simp] theorem State.setIn_err (m : Memory) : (s.setIn m).err = s.err := rfl
@[simp] theorem State.setIn_desc (m : Memory) : (s.setIn m).desc = s.desc := rfl
@[simp] theorem State.setIn_inMem (m : Memory) : (s.setIn m).inMem = m := rfl
@[simp] theorem State.setIn_outMem (m : Memory) : (s.setIn m).outMem = s.outMem := rfl
@[simp] theorem State.setIn_cfg (m : Memory) : (s.setIn m).cfg = s.cfg := rfl
@[simp] theorem State.setIn_port (m : Memory) : (s.setIn m).port = s.port := rfl
@[simp] theorem State.setIn_chunkEnd (m : Memory) : (s.setIn m).chunkEnd = s.chunkEnd := rfl
@[simp] theorem State.setIn_npix (m : Memory) : (s.setIn m).npix = s.npix := rfl
@[simp] theorem State.setIn_outBase (m : Memory) : (s.setIn m).outBase = s.outBase := rfl
@[simp] theorem State.setIn_positionFits (m : Memory) : (s.setIn m).positionFits = s.positionFits := rfl
@[simp] theorem State.setIn_busy (m : Memory) : (s.setIn m).busy = s.busy := rfl
@[simp] theorem State.setIn_outByte (m : Memory) (a : Nat) : (s.setIn m).outByte a = s.outByte a := rfl

@[simp] theorem State.storeOut_px (a : BitVec 64) (b : Byte) : (s.storeOut a b).px = s.px := rfl
@[simp] theorem State.storeOut_run (a : BitVec 64) (b : Byte) : (s.storeOut a b).run = s.run := rfl
@[simp] theorem State.storeOut_cache (a : BitVec 64) (b : Byte) : (s.storeOut a b).cache = s.cache := rfl
@[simp] theorem State.storeOut_cur (a : BitVec 64) (b : Byte) : (s.storeOut a b).cur = s.cur := rfl
@[simp] theorem State.storeOut_pos (a : BitVec 64) (b : Byte) : (s.storeOut a b).pos = s.pos := rfl
@[simp] theorem State.storeOut_len (a : BitVec 64) (b : Byte) : (s.storeOut a b).len = s.len := rfl
@[simp] theorem State.storeOut_phase (a : BitVec 64) (b : Byte) : (s.storeOut a b).phase = s.phase := rfl
@[simp] theorem State.storeOut_inLength (a : BitVec 64) (b : Byte) : (s.storeOut a b).inLength = s.inLength := rfl
@[simp] theorem State.storeOut_err (a : BitVec 64) (b : Byte) : (s.storeOut a b).err = s.err := rfl
@[simp] theorem State.storeOut_desc (a : BitVec 64) (b : Byte) : (s.storeOut a b).desc = s.desc := rfl
@[simp] theorem State.storeOut_inMem (a : BitVec 64) (b : Byte) : (s.storeOut a b).inMem = s.inMem := rfl
@[simp] theorem State.storeOut_outMem (a : BitVec 64) (b : Byte) : (s.storeOut a b).outMem = Memory.write s.outMem a.toNat b := rfl
@[simp] theorem State.storeOut_cfg (a : BitVec 64) (b : Byte) : (s.storeOut a b).cfg = s.cfg := rfl
@[simp] theorem State.storeOut_port (a : BitVec 64) (b : Byte) : (s.storeOut a b).port = s.port := rfl
@[simp] theorem State.storeOut_chunkEnd (a : BitVec 64) (b : Byte) : (s.storeOut a b).chunkEnd = s.chunkEnd := rfl
@[simp] theorem State.storeOut_npix (a : BitVec 64) (b : Byte) : (s.storeOut a b).npix = s.npix := rfl
@[simp] theorem State.storeOut_outBase (a : BitVec 64) (b : Byte) : (s.storeOut a b).outBase = s.outBase := rfl
@[simp] theorem State.storeOut_positionFits (a : BitVec 64) (b : Byte) : (s.storeOut a b).positionFits = s.positionFits := rfl
@[simp] theorem State.storeOut_busy (a : BitVec 64) (b : Byte) : (s.storeOut a b).busy = s.busy := rfl
@[simp] theorem State.storeOut_inByte (a : BitVec 64) (b : Byte) (x : Nat) : (s.storeOut a b).inByte x = s.inByte x := rfl

@[simp] theorem State.setInLength_px (v : BitVec 64) : (s.setInLength v).px = s.px := rfl
@[simp] theorem State.setInLength_run (v : BitVec 64) : (s.setInLength v).run = s.run := rfl
@[simp] theorem State.setInLength_cache (v : BitVec 64) : (s.setInLength v).cache = s.cache := rfl
@[simp] theorem State.setInLength_cur (v : BitVec 64) : (s.setInLength v).cur = s.cur := rfl
@[simp] theorem State.setInLength_pos (v : BitVec 64) : (s.setInLength v).pos = s.pos := rfl
@[simp] theorem State.setInLength_len (v : BitVec 64) : (s.setInLength v).len = s.len := rfl
@[simp] theorem State.setInLength_phase (v : BitVec 64) : (s.setInLength v).phase = s.phase := rfl
@[simp] theorem State.setInLength_inLength (v : BitVec 64) : (s.setInLength v).inLength = v := rfl
@[simp] theorem State.setInLength_err (v : BitVec 64) : (s.setInLength v).err = s.err := rfl
@[simp] theorem State.setInLength_desc (v : BitVec 64) : (s.setInLength v).desc = s.desc := rfl
@[simp] theorem State.setInLength_inMem (v : BitVec 64) : (s.setInLength v).inMem = s.inMem := rfl
@[simp] theorem State.setInLength_outMem (v : BitVec 64) : (s.setInLength v).outMem = s.outMem := rfl
@[simp] theorem State.setInLength_cfg (v : BitVec 64) : (s.setInLength v).cfg = s.cfg := rfl
@[simp] theorem State.setInLength_port (v : BitVec 64) : (s.setInLength v).port = s.port := rfl
@[simp] theorem State.setInLength_chunkEnd (v : BitVec 64) : (s.setInLength v).chunkEnd = s.chunkEnd := rfl
@[simp] theorem State.setInLength_npix (v : BitVec 64) : (s.setInLength v).npix = s.npix := rfl
@[simp] theorem State.setInLength_outBase (v : BitVec 64) : (s.setInLength v).outBase = s.outBase := rfl
@[simp] theorem State.setInLength_positionFits (v : BitVec 64) : (s.setInLength v).positionFits = s.positionFits := rfl
@[simp] theorem State.setInLength_busy (v : BitVec 64) : (s.setInLength v).busy = s.busy := rfl
@[simp] theorem State.setInLength_inByte (v : BitVec 64) (a : Nat) : (s.setInLength v).inByte a = s.inByte a := rfl
@[simp] theorem State.setInLength_outByte (v : BitVec 64) (a : Nat) : (s.setInLength v).outByte a = s.outByte a := rfl

@[simp] theorem State.setPort_px (p : HostPort) : (s.setPort p).px = s.px := rfl
@[simp] theorem State.setPort_run (p : HostPort) : (s.setPort p).run = s.run := rfl
@[simp] theorem State.setPort_cache (p : HostPort) : (s.setPort p).cache = s.cache := rfl
@[simp] theorem State.setPort_cur (p : HostPort) : (s.setPort p).cur = s.cur := rfl
@[simp] theorem State.setPort_pos (p : HostPort) : (s.setPort p).pos = s.pos := rfl
@[simp] theorem State.setPort_len (p : HostPort) : (s.setPort p).len = s.len := rfl
@[simp] theorem State.setPort_phase (p : HostPort) : (s.setPort p).phase = s.phase := rfl
@[simp] theorem State.setPort_inLength (p : HostPort) : (s.setPort p).inLength = s.inLength := rfl
@[simp] theorem State.setPort_err (p : HostPort) : (s.setPort p).err = s.err := rfl
@[simp] theorem State.setPort_desc (p : HostPort) : (s.setPort p).desc = s.desc := rfl
@[simp] theorem State.setPort_inMem (p : HostPort) : (s.setPort p).inMem = s.inMem := rfl
@[simp] theorem State.setPort_outMem (p : HostPort) : (s.setPort p).outMem = s.outMem := rfl
@[simp] theorem State.setPort_cfg (p : HostPort) : (s.setPort p).cfg = s.cfg := rfl
@[simp] theorem State.setPort_port (p : HostPort) : (s.setPort p).port = p := rfl
@[simp] theorem State.setPort_chunkEnd (p : HostPort) : (s.setPort p).chunkEnd = s.chunkEnd := rfl
@[simp] theorem State.setPort_npix (p : HostPort) : (s.setPort p).npix = s.npix := rfl
@[simp] theorem State.setPort_outBase (p : HostPort) : (s.setPort p).outBase = s.outBase := rfl
@[simp] theorem State.setPort_positionFits (p : HostPort) : (s.setPort p).positionFits = s.positionFits := rfl
@[simp] theorem State.setPort_busy (p : HostPort) : (s.setPort p).busy = s.busy := rfl
@[simp] theorem State.setPort_inByte (p : HostPort) (a : Nat) : (s.setPort p).inByte a = s.inByte a := rfl

@[simp] theorem State.start_px : (s.start).px = s.cfg.initPixel := rfl
@[simp] theorem State.start_run : (s.start).run = 0#6 := rfl
@[simp] theorem State.start_cache : (s.start).cache = Vector.replicate 64 Pixel.zero := rfl
@[simp] theorem State.start_cur : (s.start).cur = 0#64 := rfl
@[simp] theorem State.start_pos : (s.start).pos = 0#64 := rfl
@[simp] theorem State.start_len : (s.start).len = s.inLength := rfl
@[simp] theorem State.start_phase : (s.start).phase = .header := rfl
@[simp] theorem State.start_inLength : (s.start).inLength = s.inLength := rfl
@[simp] theorem State.start_err : (s.start).err = .noError := rfl
@[simp] theorem State.start_desc : (s.start).desc = Descriptor.cleared := rfl
@[simp] theorem State.start_inMem : (s.start).inMem = s.inMem := rfl
@[simp] theorem State.start_outMem : (s.start).outMem = s.outMem := rfl
@[simp] theorem State.start_cfg : (s.start).cfg = s.cfg := rfl
@[simp] theorem State.start_port : (s.start).port = s.port := rfl
@[simp] theorem State.start_inByte (a : Nat) : (s.start).inByte a = s.inByte a := rfl
@[simp] theorem State.start_outByte (a : Nat) : (s.start).outByte a = s.outByte a := rfl

@[simp] theorem State.hardReset_px : (s.hardReset).px = s.cfg.initPixel := rfl
@[simp] theorem State.hardReset_run : (s.hardReset).run = 0#6 := rfl
@[simp] theorem State.hardReset_cache : (s.hardReset).cache = Vector.replicate 64 Pixel.zero := rfl
@[simp] theorem State.hardReset_cur : (s.hardReset).cur = 0#64 := rfl
@[simp] theorem State.hardReset_pos : (s.hardReset).pos = 0#64 := rfl
@[simp] theorem State.hardReset_len : (s.hardReset).len = 0#64 := rfl
@[simp] theorem State.hardReset_phase : (s.hardReset).phase = .idle := rfl
@[simp] theorem State.hardReset_inLength : (s.hardReset).inLength = 0#64 := rfl
@[simp] theorem State.hardReset_err : (s.hardReset).err = .noError := rfl
@[simp] theorem State.hardReset_desc : (s.hardReset).desc = Descriptor.cleared := rfl
@[simp] theorem State.hardReset_inMem : (s.hardReset).inMem = s.inMem := rfl
@[simp] theorem State.hardReset_outMem : (s.hardReset).outMem = [] := rfl
@[simp] theorem State.hardReset_cfg : (s.hardReset).cfg = s.cfg := rfl
@[simp] theorem State.hardReset_port : (s.hardReset).port = { s.port with outEpoch := s.port.outEpoch + 1 } := rfl
@[simp] theorem State.hardReset_inByte (a : Nat) : (s.hardReset).inByte a = s.inByte a := rfl

end Sys2Proof.Machine
end

