-- ==== Sys2Proof/Laws/Ops.lean ====
section
/-! SUPPORT. What the shared operations and the steps can do, said once. -/

namespace Sys2Proof.Machine

theorem State.opcodeFits_iff (s : State) (n : Nat) : s.opcodeFits n = true ↔ s.cur.toNat + n ≤ s.chunkEnd := by
  simp [State.opcodeFits]

theorem State.positionFits_iff (s : State) :
    s.positionFits = true ↔ s.outBase + s.desc.channels.toNat ≤ s.cfg.outCapacity := by
  simp [State.positionFits]

/-- The chunk region ends at or below the length, once a header has been read. -/
theorem State.chunkEnd_le_len {s : State} (h : 14 ≤ s.len.toNat) : s.chunkEnd ≤ s.len.toNat := by
  simp only [State.chunkEnd]; split <;> omega

theorem State.chunkEnd_lt (s : State) : s.chunkEnd < 2 ^ 64 := by
  have := s.len.isLt
  simp only [State.chunkEnd]; split <;> omega

theorem State.npix_lt (s : State) : s.npix < 2 ^ 64 := by
  have h1 := s.desc.width.isLt
  have h2 := s.desc.height.isLt
  have := Nat.mul_lt_mul'' h1 h2
  simpa [State.npix, Descriptor.npix] using this

/-- An opcode that fits never carries the cursor past 2^64. -/
theorem State.advance_toNat {s : State} {n : Nat} (h : s.opcodeFits n = true) :
    (s.advance n).cur.toNat = s.cur.toNat + n := by
  have h1 := (s.opcodeFits_iff n).mp h
  have h2 := s.chunkEnd_lt
  simp only [State.advance_cur, BitVec.toNat_add, BitVec.toNat_ofNat]
  omega

/-- The whole of what finishing a position does. -/
theorem State.finishPosition_eq (s : State) :
    s.finishPosition =
      if s.positionFits then .next s.writeOutput.nextPosition else .fault .outOffsetAbsent := rfl

theorem State.finishPosition_next {s t : State} (h : s.finishPosition = .next t) :
    s.positionFits = true ∧ t = s.writeOutput.nextPosition := by
  simp only [State.finishPosition] at h
  split at h
  · exact ⟨‹_›, by simpa using h.symm⟩
  · cases h

theorem State.ifFits_of_fits {s : State} {n : Nat} (h : s.opcodeFits n = true) (body : StepResult) :
    s.ifFits n body = body := by simp [State.ifFits, h]

theorem State.ifFits_of_not {s : State} {n : Nat} (h : s.opcodeFits n = false) (body : StepResult) :
    s.ifFits n body = .next (s.raise .outOfBoundsRead) := by simp [State.ifFits, h]

section resolve
variable (s : State) (n : Nat) (p : Pixel)
@[simp] theorem State.resolve_px : (s.resolve n p).px = p := rfl
@[simp] theorem State.resolve_run : (s.resolve n p).run = s.run := rfl
@[simp] theorem State.resolve_cur : (s.resolve n p).cur = s.cur + BitVec.ofNat 64 n := rfl
@[simp] theorem State.resolve_cache : (s.resolve n p).cache = s.cache.set (pixelHash p) p := rfl
@[simp] theorem State.resolve_pos : (s.resolve n p).pos = s.pos := rfl
@[simp] theorem State.resolve_len : (s.resolve n p).len = s.len := rfl
@[simp] theorem State.resolve_phase : (s.resolve n p).phase = s.phase := rfl
@[simp] theorem State.resolve_inLength : (s.resolve n p).inLength = s.inLength := rfl
@[simp] theorem State.resolve_err : (s.resolve n p).err = s.err := rfl
@[simp] theorem State.resolve_desc : (s.resolve n p).desc = s.desc := rfl
@[simp] theorem State.resolve_inMem : (s.resolve n p).inMem = s.inMem := rfl
@[simp] theorem State.resolve_outMem : (s.resolve n p).outMem = s.outMem := rfl
@[simp] theorem State.resolve_cfg : (s.resolve n p).cfg = s.cfg := rfl
@[simp] theorem State.resolve_port : (s.resolve n p).port = s.port := rfl
@[simp] theorem State.resolve_chunkEnd : (s.resolve n p).chunkEnd = s.chunkEnd := rfl
@[simp] theorem State.resolve_npix : (s.resolve n p).npix = s.npix := rfl
@[simp] theorem State.resolve_outBase : (s.resolve n p).outBase = s.outBase := rfl
@[simp] theorem State.resolve_positionFits : (s.resolve n p).positionFits = s.positionFits := rfl
end resolve

/-- The slot of the inserted pixel, and every other slot. -/
theorem State.resolve_slot (s : State) (n : Nat) (p : Pixel) (k : Fin 64) :
    (s.resolve n p).cache.get k = if k = pixelHash p then p else s.cache.get k := by
  rw [State.resolve_cache]
  simp only [Vector.get_eq_getElem, Vector.getElem_set, Fin.ext_iff, eq_comm]

/-! ### What finishing a position leaves -/

/-- The written bytes of the position read as the pixel's channel bytes. -/
theorem State.writeOutput_inside (s : State) {k : Nat} {b : Byte}
    (h : (outBytes s.desc.channels.toNat s.px)[k]? = some b) : s.writeOutput.outByte (s.outBase + k) = b := by
  obtain ⟨hk, rfl⟩ := List.getElem?_eq_some_iff.mp h
  simp [State.outByte, Memory.read_writeAll_inside _ hk]

/-- Every other byte of OUT reads as before. -/
theorem State.writeOutput_outside (s : State) {a : Nat}
    (h : a < s.outBase ∨ s.outBase + s.desc.channels.toNat ≤ a) : s.writeOutput.outByte a = s.outByte a := by
  have := outBytes_length_le s.desc.channels.toNat s.px
  simp only [State.outByte, State.writeOutput_outMem, State.writeOutput_port]
  rw [Memory.read_writeAll_outside _ (by omega)]

/-- A position finished from `u`, where `u` stands at the same position as `s` with the same OUT, is emitted from `s`. -/
theorem State.emitted_of_finish {s u : State} (hc : s.ChannelsAdmitted) (hpos : u.pos = s.pos) (hd : u.desc = s.desc)
    (ho : u.outMem = s.outMem) (hp : u.port = s.port) (hph : u.phase = s.phase) :
    s.Emitted u.writeOutput.nextPosition := by
  have hb : u.outBase = s.pos.toNat * s.desc.channels.toNat := by simp [State.outBase, hpos, hd]
  have inside : ∀ k v, (outBytes s.desc.channels.toNat u.px)[k]? = some v →
      u.writeOutput.nextPosition.outByte (s.pos.toNat * s.desc.channels.toNat + k) = v := by
    intro k v hk
    rw [← hb]
    exact u.writeOutput_inside (by rwa [hd])
  refine ⟨inside 0 _ ?_, inside 1 _ ?_, inside 2 _ ?_, fun h4 => inside 3 _ ?_, fun a ha => ?_, by simp [hpos], ?_⟩
  · rcases hc with hc | hc <;> rw [hc] <;> rfl
  · rcases hc with hc | hc <;> rw [hc] <;> rfl
  · rcases hc with hc | hc <;> rw [hc] <;> rfl
  · rw [h4]; rfl
  · rw [State.nextPosition_outByte, State.writeOutput_outside _ (by rw [hb, hd]; exact ha)]
    simp [State.outByte, ho, hp]
  · simp [State.npix, Descriptor.npix, hpos, hd, hph]

/-- A resolved pixel and its finished position. -/
theorem State.resolved_of_finish {s : State} (n : Nat) (p : Pixel) (hc : s.ChannelsAdmitted) :
    s.Resolved (s.resolve n p).writeOutput.nextPosition n p where
  px := rfl
  run := rfl
  cur := rfl
  slot := by simp only [State.nextPosition_cache, State.writeOutput_cache, State.resolve_slot, if_pos]
  slots k hk := by simp only [State.nextPosition_cache, State.writeOutput_cache, State.resolve_slot, if_neg hk]
  kept := ⟨rfl, rfl, rfl, rfl, rfl, rfl, rfl⟩
  emitted := State.emitted_of_finish hc rfl rfl rfl rfl rfl

/-- A position finished with the pixel, the cache and the cursor as they were. -/
theorem State.replayed_of_finish {s : State} (f : BitVec 6) (hc : s.ChannelsAdmitted) :
    s.Replayed (s.setRun f).writeOutput.nextPosition where
  px := rfl
  cache := rfl
  cur := rfl
  kept := ⟨rfl, rfl, rfl, rfl, rfl, rfl, rfl⟩
  emitted := State.emitted_of_finish hc rfl rfl rfl rfl rfl

/-! ### The opcodes -/

/-- What an opcode does before the position is finished. -/
def effect : Instr → State → State
  | .rgb r g b, s => s.resolve 4 ⟨r, g, b, s.px.a⟩
  | .rgba r g b a, s => s.resolve 5 ⟨r, g, b, a⟩
  | .index i, s => s.resolve 1 (s.cache.get i.toFin)
  | .diff dr dg db, s => s.resolve 1 (addDeltas s.px (diffDelta dr) (diffDelta dg) (diffDelta db))
  | .luma dg drg dbg, s => s.resolve 2 (addDeltas s.px (lumaSide dg drg) (lumaGreen dg) (lumaSide dg dbg))
  | .run f, s => (s.setRun f).advance 1

/-- Every opcode: cut short, it raises; otherwise its effect and the end of the position. One byte always fits. -/
theorem exec_eq (i : Instr) (s : State) :
    exec i s = if i.size = 1 ∨ s.opcodeFits i.size = true then (effect i s).finishPosition
      else .next (s.raise .outOfBoundsRead) := by
  cases i <;> simp [exec, execRgb, execRgba, execIndex, execDiff, execLuma, execRun, Instr.size, effect, State.ifFits]

@[simp] theorem effect_positionFits (i : Instr) (s : State) : (effect i s).positionFits = s.positionFits := by
  cases i <;> rfl

/-- The inversion of an opcode's step: it raised, or its effect stands and the position was finished. -/
theorem exec_cases {i : Instr} {s t : State} (h : exec i s = .next t) :
    (s.opcodeFits i.size = false ∧ i.size ≠ 1 ∧ t = s.raise .outOfBoundsRead) ∨
    ((i.size = 1 ∨ s.opcodeFits i.size = true) ∧ s.positionFits = true ∧ t = (effect i s).writeOutput.nextPosition) := by
  rw [exec_eq] at h
  split at h
  · rename_i hf
    obtain ⟨h1, h2⟩ := State.finishPosition_next h
    exact Or.inr ⟨hf, by simpa using h1, h2⟩
  · rename_i hf
    obtain ⟨h1, h2⟩ := not_or.mp hf
    exact Or.inl ⟨by simpa using h2, h1, by simpa using h.symm⟩

/-- An opcode that fits, at a position that fits, runs. -/
theorem exec_next {i : Instr} {s : State} (h : i.size = 1 ∨ s.cur.toNat + i.size ≤ s.chunkEnd)
    (hp : s.positionFits = true) : exec i s = .next (effect i s).writeOutput.nextPosition := by
  rw [exec_eq, if_pos (by rwa [State.opcodeFits_iff]), State.finishPosition_eq, effect_positionFits, if_pos hp]

/-- An opcode cut short raises. -/
theorem exec_raise {i : Instr} {s : State} (h1 : i.size ≠ 1) (h : s.chunkEnd < s.cur.toNat + i.size) :
    exec i s = .next (s.raise .outOfBoundsRead) := by
  rw [exec_eq, if_neg]
  rw [State.opcodeFits_iff]
  omega

/-- Every opcode but QOI_OP_RUN resolves a pixel; QOI_OP_RGB, QOI_OP_DIFF and QOI_OP_LUMA keep its alpha. -/
theorem effect_resolve {i : Instr} (s : State) (h : i.opClass ≠ .run) :
    ∃ p, effect i s = s.resolve i.size p ∧
      (i.opClass = .rgb ∨ i.opClass = .diff ∨ i.opClass = .luma → p.a = s.px.a) := by
  cases i with
  | rgb r g b => exact ⟨_, rfl, fun _ => rfl⟩
  | rgba r g b a => exact ⟨_, rfl, by simp [Instr.opClass]⟩
  | index i => exact ⟨_, rfl, by simp [Instr.opClass]⟩
  | diff dr dg db => exact ⟨_, rfl, fun _ => rfl⟩
  | luma dg drg dbg => exact ⟨_, rfl, fun _ => rfl⟩
  | run f => exact absurd rfl h

/-! ### The steps -/

/-- A pixel step takes one of its three paths. -/
theorem pixelStep_cases (s : State) :
    (s.run ≠ 0#6 ∧ pixelStep s = (s.setRun (s.run - 1#6)).finishPosition) ∨
    (s.run = 0#6 ∧ s.chunkEnd ≤ s.cur.toNat ∧ pixelStep s = s.finishPosition) ∨
    (s.run = 0#6 ∧ s.cur.toNat < s.chunkEnd ∧ pixelStep s = fetchStep s) := by
  simp only [pixelStep, repeatStep, exhaustedStep]
  by_cases h : s.run = 0#6
  · by_cases h2 : s.cur.toNat < s.chunkEnd
    · simp [h, h2]
    · simp [h, h2, Nat.le_of_not_lt h2]
  · simp [h]

/-- With no host move pending the step is the decoder's. -/
theorem step_noMove {s : State} (h : s.port.pending = []) : step s = decoderStep s := by
  simp [step, nextMove, h]

/-- With a host move pending the step is that move. -/
theorem step_hostMove {s : State} {m : HostMove} {ms : List HostMove} (h : s.port.pending = m :: ms) :
    step s = hostMove m (s.setPort { s.port with pending := ms }) := by
  simp [step, nextMove, h]

theorem decoderStep_pixels {s : State} (h : s.phase = .pixels) : decoderStep s = pixelStep s := by
  simp [decoderStep, h]

theorem decoderStep_header {s : State} (h : s.phase = .header) : decoderStep s = .next (headerStep s) := by
  simp [decoderStep, h]

theorem signatureGood_iff (s : State) : s.signatureGood = true ↔ s.Signed := by
  simp only [State.signatureGood, Bool.and_eq_true, decide_eq_true_eq, magic, List.cons.injEq, and_true]
  exact ⟨fun ⟨h, q, o, i, f⟩ => ⟨h, q, o, i, f⟩, fun ⟨h, q, o, i, f⟩ => ⟨h, q, o, i, f⟩⟩

/-- The state after the four header fields were read. -/
def headerRead (s : State) : State :=
  (s.setDesc ⟨be32 (s.inByte 4) (s.inByte 5) (s.inByte 6) (s.inByte 7),
    be32 (s.inByte 8) (s.inByte 9) (s.inByte 10) (s.inByte 11), s.inByte 12, s.inByte 13⟩).setCur 14#64

/-- A header of at least 14 bytes reaches the admissions with its four fields. -/
theorem headerStep_full {s : State} (hs : s.Signed) (hl : 14 ≤ s.len.toNat) :
    headerStep s = headerAdmitChannels (headerRead s) := by
  have h8 : ¬ s.len.toNat < 8 := by omega
  have h12 : ¬ s.len.toNat < 12 := by omega
  have h13 : ¬ s.len.toNat < 13 := by omega
  have h14 : ¬ s.len.toNat < 14 := by omega
  simp [headerStep, (signatureGood_iff s).mpr hs, headerWidth, headerHeight, headerChannels, headerColorspace, h8, h12, h13,
    h14, headerRead, State.setDesc, State.setCur, State.inByte]

end Sys2Proof.Machine
end

