-- ==== Sys2Proof/Laws/PerInstr.lean ====
section
/-! SUPPORT. Statements made once per opcode: the encoded bytes of an opcode have the length of its format and of its tag (spec 30_encoding.md R73, R80). -/

namespace Sys2Proof.Laws

/-- The encoding of a well-formed opcode is a tag of that length followed by its data bytes. -/
def EncodedSize.Statement (i : Instr) : Prop :=
  i.wf = true → (encode i).length = i.size ∧ ∀ t ds, encode i = t :: ds → opLen t = i.size

theorem EncodedSize.rgb (r g b : Byte) : EncodedSize.Statement (.rgb r g b) := by
  intro hw
  refine ⟨rfl, fun t ds h => ?_⟩
  rw [← (List.cons.inj h).1]
  rfl

theorem EncodedSize.rgba (r g b a : Byte) : EncodedSize.Statement (.rgba r g b a) := by
  intro hw
  refine ⟨rfl, fun t ds h => ?_⟩
  rw [← (List.cons.inj h).1]
  rfl

theorem EncodedSize.index (i : BitVec 6) : EncodedSize.Statement (.index i) := by
  intro hw
  refine ⟨rfl, fun t ds h => ?_⟩
  rw [← (List.cons.inj h).1]
  show opLen (0b00#2 ++ i) = 1
  clear h hw
  revert i
  decide

theorem EncodedSize.diff (dr dg db : BitVec 2) : EncodedSize.Statement (.diff dr dg db) := by
  intro hw
  refine ⟨rfl, fun t ds h => ?_⟩
  rw [← (List.cons.inj h).1]
  show opLen (0b01#2 ++ dr ++ dg ++ db) = 1
  clear h hw
  revert dr dg db
  decide

theorem EncodedSize.luma (dg : BitVec 6) (drg dbg : BitVec 4) : EncodedSize.Statement (.luma dg drg dbg) := by
  intro hw
  refine ⟨rfl, fun t ds h => ?_⟩
  rw [← (List.cons.inj h).1]
  show opLen (0b10#2 ++ dg) = 2
  clear h hw
  revert dg
  decide

theorem EncodedSize.run (f : BitVec 6) : EncodedSize.Statement (.run f) := by
  intro hf
  refine ⟨rfl, fun t ds h => ?_⟩
  rw [← (List.cons.inj h).1]
  clear h
  revert f
  decide

end Sys2Proof.Laws
end

