-- ==== Sys2Proof/Laws/Run.lean ====
section
/-! SUPPORT. Runs of several steps (Host.Core.run), one step at a time. -/

namespace Sys2Proof.Machine

theorem core_run_succ {s t : State} (k : Nat) (h : step s = .next t) :
    Host.Core.run Sys2Proof.core (k + 1) s = Host.Core.run Sys2Proof.core k t := by
  have h' : Sys2Proof.core.step s = .next t := h
  simp only [Host.Core.run, h']

theorem core_run_fault {s : State} {r : Fault} (k : Nat) (h : step s = .fault r) :
    Host.Core.run Sys2Proof.core (k + 1) s = .fault r := by
  have h' : Sys2Proof.core.step s = .fault r := h
  simp only [Host.Core.run, h']

theorem core_run_refused {s : State} {r : Refusal} (k : Nat) (h : step s = .refused r) :
    Host.Core.run Sys2Proof.core (k + 1) s = .refused r := by
  have h' : Sys2Proof.core.step s = .refused r := h
  simp only [Host.Core.run, h']

/-- A run of k steps and then one more step. -/
theorem core_run_snoc {k : Nat} {s u t : State} (h : Host.Core.run Sys2Proof.core k s = .next u) (hu : step u = .next t) :
    Host.Core.run Sys2Proof.core (k + 1) s = .next t := by
  induction k generalizing s with
  | zero =>
    cases h
    rw [core_run_succ 0 hu]
    rfl
  | succ k ih =>
    cases hs : step s with
    | next v =>
      rw [core_run_succ _ hs] at h ⊢
      exact ih h
    | fault r => rw [core_run_fault _ hs] at h; cases h
    | refused r => rw [core_run_refused _ hs] at h; cases h

end Sys2Proof.Machine
end

