-- ==== Sys2Proof/Laws/Steps.lean ====
section
/-! SUPPORT. The inversion of a pixel step: every way it can answer a next state, said once. -/

namespace Sys2Proof.Machine

/-- No opcode's effect touches the position, the descriptor, OUT, IN, the phase, the error, the lengths, the parameters or the port,
and each passes its own bytes. -/
theorem effect_fields (i : Instr) (s : State) :
    (effect i s).pos = s.pos ∧ (effect i s).desc = s.desc ∧ (effect i s).outMem = s.outMem ∧ (effect i s).inMem = s.inMem ∧
    (effect i s).phase = s.phase ∧ (effect i s).err = s.err ∧ (effect i s).len = s.len ∧
    (effect i s).inLength = s.inLength ∧ (effect i s).cfg = s.cfg ∧ (effect i s).port = s.port ∧
    (effect i s).cur = s.cur + BitVec.ofNat 64 i.size := by
  cases i <;> exact ⟨rfl, rfl, rfl, rfl, rfl, rfl, rfl, rfl, rfl, rfl, rfl⟩

/-- A fetch raises, or runs a decoded opcode to the end of its position. -/
theorem fetchStep_next {s t : State} (h : fetchStep s = .next t) :
    t = s.raise .outOfBoundsRead ∨
    ∃ i rest, decode s.fetchBytes = .accepted i rest ∧ (i.size = 1 ∨ s.opcodeFits i.size = true) ∧ s.positionFits = true ∧
      t = (effect i s).writeOutput.nextPosition := by
  rw [fetchStep] at h
  split at h
  · rename_i i rest hd
    rcases exec_cases h with ⟨_, _, rfl⟩ | ⟨hs, hp, rfl⟩
    · exact Or.inl rfl
    · exact Or.inr ⟨i, rest, hd, hs, hp, rfl⟩
  · exact Or.inl (by simpa using h.symm)

/-- A pixel step raises, repeats a run, replays, or runs a decoded opcode; in all but the first it finishes the position. -/
theorem pixelStep_next {s t : State} (h : pixelStep s = .next t) :
    (s.run = 0#6 ∧ s.cur.toNat < s.chunkEnd ∧ t = s.raise .outOfBoundsRead) ∨
    (s.positionFits = true ∧
      ((s.run ≠ 0#6 ∧ t = (s.setRun (s.run - 1#6)).writeOutput.nextPosition) ∨
       (s.run = 0#6 ∧ s.chunkEnd ≤ s.cur.toNat ∧ t = s.writeOutput.nextPosition) ∨
       (s.run = 0#6 ∧ s.cur.toNat < s.chunkEnd ∧ ∃ i rest, decode s.fetchBytes = .accepted i rest ∧
         (i.size = 1 ∨ s.opcodeFits i.size = true) ∧ t = (effect i s).writeOutput.nextPosition))) := by
  rcases pixelStep_cases s with ⟨hr, e⟩ | ⟨hr, hc, e⟩ | ⟨hr, hc, e⟩ <;> rw [e] at h
  · obtain ⟨hp, ht⟩ := State.finishPosition_next h
    exact Or.inr ⟨hp, Or.inl ⟨hr, ht⟩⟩
  · obtain ⟨hp, ht⟩ := State.finishPosition_next h
    exact Or.inr ⟨hp, Or.inr (Or.inl ⟨hr, hc, ht⟩)⟩
  · rcases fetchStep_next h with ht | ⟨i, rest, hd, hs, hp, ht⟩
    · exact Or.inl ⟨hr, hc, ht⟩
    · exact Or.inr ⟨hp, Or.inr (Or.inr ⟨hr, hc, i, rest, hd, hs, ht⟩)⟩

end Sys2Proof.Machine
end

