-- ==== Sys2Proof/Tests/Slice0.lean ====
section
/-! SUPPORT. Tests on single steps, expected values from the examples and vectors of spec/95_test_vectors.md and of the rules, and a witness for the hypotheses of every statement. -/

namespace Sys2Proof.Tests

open Sys2Proof.Machine

/-! ### Small states -/

/-- A 4x1 image in PIXELS with these channels, these stream bytes at offset 14 and nothing after them. -/
def pixState (p : Pixel) (channels : Byte) (bytes : List Byte) : State :=
  { State.reset with
    px := p
    cur := 14#64
    len := BitVec.ofNat 64 (14 + bytes.length)
    phase := .pixels
    desc := ⟨4#32, 1#32, channels, 0#8⟩
    inMem := Memory.writeAll [] 14 bytes }

/-- HEADER with these bytes in IN. -/
def headState (bytes : List Byte) : State :=
  { State.reset with
    len := BitVec.ofNat 64 bytes.length
    phase := .header
    inMem := Memory.writeAll [] 0 bytes }

/-- Host moves before anything else. -/
def withMoves (ms : List HostMove) (s : State) : State := s.setPort { s.port with pending := ms }

/-- A property of the next state. -/
def nextHas (r : StepResult) (f : State → Bool) : Bool :=
  match r with
  | .next t => f t
  | .fault _ => false
  | .refused _ => false

def init : Pixel := ⟨0#8, 0#8, 0#8, 255#8⟩

/-! ### WellFormed: the one check (R79) -/

theorem test_wf_refuses_run_62 : (Instr.run 62#6).wf = false := by decide
theorem test_wf_refuses_run_63 : (Instr.run 63#6).wf = false := by decide
theorem test_wf_takes_run_61 : (Instr.run 61#6).wf = true := by decide

/-! ### Decoding, words written out from the formats of R73 -/

theorem test_decode_rgb : decode [0xFE#8, 0xC0#8, 0xFE#8, 0xFF#8] = .accepted (.rgb 0xC0#8 0xFE#8 0xFF#8) [] := by decide
theorem test_decode_rgba :
    decode [0xFF#8, 1#8, 2#8, 3#8, 4#8, 0xFE#8] = .accepted (.rgba 1#8 2#8 3#8 4#8) [0xFE#8] := by decide
theorem test_decode_index : decode [0b00110101#8] = .accepted (.index 53#6) [] := by decide
theorem test_decode_diff : decode [0b01001110#8] = .accepted (.diff 0b00#2 0b11#2 0b10#2) [] := by decide
theorem test_decode_luma : decode [0b10000000#8, 0b11110000#8] = .accepted (.luma 0#6 0b1111#4 0b0000#4) [] := by decide
theorem test_decode_run : decode [0b11000001#8] = .accepted (.run 1#6) [] := by decide
theorem test_decode_cut_luma : decode [0xA0#8] = .rejected (.cutShort .luma) := by decide
theorem test_decode_nothing : decode [] = .rejected .noTag := by decide
theorem test_table_word_rgba : decodeTableWord 40 0x04030201FF = some (.rgba 1#8 2#8 3#8 4#8) := by decide
theorem test_table_word_short : decodeTableWord 8 0x80 = some (.luma 0#6 0#4 0#4) := by decide

/-- P3 of spec/95, its listing as bytes. -/
theorem test_assemble_p3 :
    assemble [.header 4#32 1#32 4#8 0#8, .luma (-32) 7 (-8), .diff (-2) 1 0] =
      some [0x71#8, 0x6F#8, 0x69#8, 0x66#8, 0#8, 0#8, 0#8, 4#8, 0#8, 0#8, 0#8, 1#8, 4#8, 0#8, 0x80#8, 0xF0#8, 0x4E#8] := by
  decide

/-- R84: a run of 69 is `QOI_OP_RUN 62`, `QOI_OP_RUN 7` (X30). -/
theorem test_long_run : assemble (runLines 5 69) = some [0xFD#8, 0xC6#8] := by decide

/-! ### The hash, values of W9 -/

theorem test_hash_init : pixelHash init = 53 := by decide
theorem test_hash_luma_extreme : pixelHash ⟨216#8, 224#8, 216#8, 255#8⟩ = 5 := by decide
theorem test_hash_alpha : pixelHash ⟨9#8, 9#8, 9#8, 4#8⟩ = 51 := by decide

/-! ### One pixel step per opcode -/

/-- Example of R130 (X13). -/
theorem test_rgb : nextHas (step (pixState init 4#8 [0xFE#8, 1#8, 2#8, 3#8])) (fun t =>
    t.px == ⟨1#8, 2#8, 3#8, 255#8⟩ && t.cur == 18#64 && t.cache.get 23 == ⟨1#8, 2#8, 3#8, 255#8⟩ &&
    t.outMem == [(0, 1#8), (1, 2#8), (2, 3#8), (3, 255#8)] && t.pos == 1#64) = true := by decide

/-- X14: the RGB is cut short. -/
theorem test_rgb_cut : nextHas (step (pixState init 4#8 [0xFE#8, 1#8, 2#8])) (fun t =>
    t.phase == .error && t.err == .outOfBoundsRead && t.cur == 14#64 && t.px == init && t.outMem == [] &&
    t.pos == 0#64) = true := by decide

/-- X17, first position: 3 channels, alpha kept inside, no alpha byte. -/
theorem test_rgba_three_channels : nextHas (step (pixState init 3#8 [0xFF#8, 1#8, 2#8, 3#8, 4#8])) (fun t =>
    t.px == ⟨1#8, 2#8, 3#8, 4#8⟩ && t.cache.get 14 == ⟨1#8, 2#8, 3#8, 4#8⟩ &&
    t.outMem == [(0, 1#8), (1, 2#8), (2, 3#8)]) = true := by decide

/-- P4: the RGBA is cut short. -/
theorem test_rgba_cut : nextHas (step (pixState init 4#8 [0xFF#8, 1#8, 2#8])) (fun t =>
    t.err == .outOfBoundsRead && t.cur == 14#64) = true := by decide

/-- P8, second position: `INDEX 5` reads an unwritten slot and its insert overwrites slot 0 (90_conflicts.md C2). -/
theorem test_index_overwrites_slot_0 :
    nextHas (step { pixState ⟨64#8, 0#8, 0#8, 0#8⟩ 4#8 [0x05#8] with
      cache := (Vector.replicate 64 Pixel.zero).set 0 ⟨64#8, 0#8, 0#8, 0#8⟩ }) (fun t =>
    t.px == Pixel.zero && t.cache.get 0 == Pixel.zero && t.cur == 15#64) = true := by decide

/-- X22, second position: `70` from (0,255,0,255) wraps down in two channels. -/
theorem test_diff_wraps : nextHas (step (pixState ⟨0#8, 255#8, 0#8, 255#8⟩ 4#8 [0x70#8])) (fun t =>
    t.px == ⟨1#8, 253#8, 254#8, 255#8⟩ && t.cache.get 27 == ⟨1#8, 253#8, 254#8, 255#8⟩) = true := by decide

/-- X25, second position: the most negative deltas from (38,31,38,255). -/
theorem test_luma_wraps : nextHas (step (pixState ⟨38#8, 31#8, 38#8, 255#8⟩ 4#8 [0x80#8, 0x00#8])) (fun t =>
    t.px == ⟨254#8, 255#8, 254#8, 255#8⟩ && t.cache.get 28 == ⟨254#8, 255#8, 254#8, 255#8⟩ && t.cur == 16#64) = true := by
  decide

/-- P3, first position: red and blue differ (dg -32, dr -25, db -40). -/
theorem test_luma_nibbles : nextHas (step (pixState init 4#8 [0x80#8, 0xF0#8])) (fun t =>
    t.px == ⟨231#8, 224#8, 216#8, 255#8⟩) = true := by decide

/-- P6, first position: the run tag emits INIT_PIXEL and inserts nothing. -/
theorem test_run_first : nextHas (step (pixState init 4#8 [0xC0#8])) (fun t =>
    t.run == 0#6 && t.px == init && t.cache.get 53 == Pixel.zero && t.cur == 15#64 &&
    t.outMem == [(0, 0#8), (1, 0#8), (2, 0#8), (3, 255#8)]) = true := by decide

/-- Example of R135: field 61. -/
theorem test_run_longest : nextHas (step (pixState ⟨7#8, 8#8, 9#8, 255#8⟩ 3#8 [0xFD#8])) (fun t =>
    t.run == 61#6 && t.px == ⟨7#8, 8#8, 9#8, 255#8⟩) = true := by decide

/-- Example of R111: run 2 becomes 1 and no input is read. -/
theorem test_run_repeat : nextHas (step { pixState init 4#8 [0xFE#8] with run := 2#6 }) (fun t =>
    t.run == 1#6 && t.cur == 14#64 && t.pos == 1#64) = true := by decide

/-! ### The header step and the host -/

/-- X3: the width is read, the height does not fit. -/
theorem test_header_short : nextHas (step (headState [0x71#8, 0x6F#8, 0x69#8, 0x66#8, 0#8, 0#8, 1#8, 0#8])) (fun t =>
    t.err == .outOfBoundsRead && t.desc == ⟨256#32, 0#32, 0#8, 0#8⟩ && t.cur == 8#64) = true := by decide

/-- X5: channels 5, colorspace 7. -/
theorem test_header_channels : nextHas (step (headState (headerBytes 1#32 1#32 5#8 7#8))) (fun t =>
    t.err == .channelsError && t.desc == ⟨1#32, 1#32, 5#8, 7#8⟩ && t.cur == 14#64) = true := by decide

/-- X7 and X8: 36 bytes do not fit in 35 and fit in 36. -/
theorem test_header_capacity :
    nextHas (step { headState (headerBytes 3#32 3#32 4#8 0#8) with cfg := { Config.standard with outCapacity := 35 } })
      (fun t => t.err == .allocationError) = true ∧
    nextHas (step { headState (headerBytes 3#32 3#32 4#8 0#8) with cfg := { Config.standard with outCapacity := 36 } })
      (fun t => t.phase == .pixels) = true := by decide

/-- X9: the exact product, not its low 64 bits. -/
theorem test_header_exact_product :
    nextHas (step { headState (headerBytes 0xFFFFFFFF#32 0xFFFFFFFF#32 4#8 0#8) with
      cfg := { Config.standard with outCapacity := 2 ^ 64 - 1 } }) (fun t => t.err == .allocationError) = true := by decide

/-- X10: no pixels. -/
theorem test_header_no_pixels : nextHas (step (headState (headerBytes 0#32 5#32 4#8 0#8))) (fun t =>
    t.phase == .done && t.err == .noError) = true := by decide

/-- Example of R90: START with IN_LENGTH = 20. -/
theorem test_start : nextHas (step (withMoves [.writeReg .ctrlStart 1#64] { State.reset with inLength := 20#64 })) (fun t =>
    t.len == 20#64 && t.cur == 0#64 && t.px == init && t.statusState == 1#2 && t.err == .noError) = true := by decide

/-- TRAILER_LEN 8 ends the chunk region 8 bytes early (P7: chunk_end 19 of 27). -/
theorem test_chunk_end_trailer :
    ({ State.reset with len := 27#64, cfg := { Config.standard with trailerLen := 8 } } : State).chunkEnd = 19 := by decide

/-- The opcode a table word names is the first one a step from reset runs. -/
theorem test_fetch_word_runs : nextHas (step (State.reset.withFetchWord 32 0x030201FE)) (fun t =>
    t.px == ⟨1#8, 2#8, 3#8, 255#8⟩ && t.cur == 18#64) = true := by decide

/-! ### Witnesses: states and operands that meet the hypotheses of each statement -/

/-- The state of `pixState` at its fetch. -/
theorem pixState_atFetch : (pixState init 4#8 [0xFD#8]).AtFetch := ⟨⟨rfl, rfl⟩, rfl, by decide⟩

/-- A state in PIXELS that meets the invariant, about to fetch the given bytes. -/
theorem pixState_inv (p : Pixel) (bytes : List Byte) (h : 14 + bytes.length < 2 ^ 64) : (pixState p 4#8 bytes).Inv where
  inSorted := Memory.wf_writeAll List.Pairwise.nil _ _
  outSorted := List.Pairwise.nil
  outExists c hc := by cases hc
  slots k := Or.inl (by simp [pixState, State.reset, State.resetWith, Vector.get_eq_getElem])
  runSmall := by show (0#6).toNat ≤ 61; decide
  errExact := ⟨fun _ => by simp [pixState], fun _ => rfl⟩
  cursorBound := by simp [pixState]; omega
  positionBound := by show (0#64).toNat ≤ _; simp
  idleFresh h := by cases h
  headerFresh h := by cases h
  pixelsAdmitted _ := by
    refine ⟨⟨Or.inr rfl, ?_, ?_, ?_, ?_⟩, ?_⟩
    · show 4 * 1 * 4 ≤ 1048576; decide
    · show 14 ≤ (14#64).toNat; decide
    · show 14 ≤ (BitVec.ofNat 64 (14 + bytes.length)).toNat; simp; omega
    · simp only [State.chunkEnd]
      show (14#64).toNat ≤ if 14 + 0 ≤ (BitVec.ofNat 64 (14 + bytes.length)).toNat then
        (BitVec.ofNat 64 (14 + bytes.length)).toNat - 0 else 14
      simp; split <;> omega
    · show (0#64).toNat < 4 * 1; decide
  doneComplete h := by cases h

/-- A state in HEADER that meets the invariant, with the given buffer. -/
theorem headState_inv (bytes : List Byte) : (headState bytes).Inv where
  inSorted := Memory.wf_writeAll List.Pairwise.nil _ _
  outSorted := List.Pairwise.nil
  outExists c hc := by cases hc
  slots k := Or.inl (by simp [headState, State.reset, State.resetWith, Vector.get_eq_getElem])
  runSmall := by show (0#6).toNat ≤ 61; decide
  errExact := ⟨fun _ => by simp [headState], fun _ => rfl⟩
  cursorBound := by show (0#64).toNat ≤ _; simp
  positionBound := by show (0#64).toNat ≤ _; simp
  idleFresh h := by cases h
  headerFresh _ := ⟨rfl, rfl, rfl, rfl, rfl, rfl⟩
  pixelsAdmitted h := by cases h
  doneComplete h := by cases h

/-- The header of a 2x1 image of 4 channels (R92's example). -/
def header21 : List Byte := headerBytes 2#32 1#32 4#8 0#8

theorem signed_of_header : (headState header21).Signed := ⟨by decide, by decide, by decide, by decide, by decide⟩

theorem witness_DecodeOfEncodeIsIdentity : (Instr.run 61#6).wf = true ∧ (Instr.luma 63#6 15#4 15#4).wf = true := by decide
theorem witness_EncodeOfDecodeIsIdentity : decode [0xFD#8, 0xFE#8] = .accepted (.run 61#6) [0xFE#8] := by decide
theorem witness_TagSelectsTheOpcodeClass :
    ((0x00#8).toNat / 64 = 0 ∧ (0x3F#8).toNat / 64 = 0) ∧ ((0x40#8).toNat / 64 = 1 ∧ (0x7F#8).toNat / 64 = 1) ∧
    ((0x80#8).toNat / 64 = 2 ∧ (0xBF#8).toNat / 64 = 2) ∧ (0xC0#8).toNat / 64 = 3 ∧ (0xFD#8).toNat / 64 = 3 ∧
    (0xFD#8).toNat < 0xFE := by decide
theorem witness_OpcodeLengthIsGivenByTheTag :
    (0x80#8 ≠ 0xFE#8 ∧ 0x80#8 ≠ 0xFF#8) ∧ opLen 0xFF#8 ≤ [1#8, 2#8, 3#8, 4#8].length + 1 := by decide
theorem witness_DecoderRejectsOnlyCutOpcodes :
    decode [0xFF#8, 1#8, 2#8, 3#8] = .rejected (.cutShort .rgba) ∧ [1#8, 2#8, 3#8].length + 1 < opLen 0xFF#8 := by decide
theorem witness_ListingLinesAssembleInRange :
    (Line.diff (-2) 1 0).instr? = some (.diff 0#2 3#2 2#2) ∧ (Line.diff (-3) 0 0).instr? = none ∧
    (Line.luma (-32) 7 (-8)).instr? = some (.luma 0#6 15#4 0#4) ∧ (Line.luma 31 (-8) 7).instr? = some (.luma 63#6 0#4 15#4) ∧
    (Line.luma 32 0 0).instr? = none ∧ (Line.index 0).instr? = some (.index 0#6) ∧
    (Line.index 63).instr? = some (.index 63#6) ∧ (Line.index 64).instr? = none ∧ (Line.run 0).instr? = none ∧
    (Line.run 1).instr? = some (.run 0#6) ∧ (Line.run 62).instr? = some (.run 61#6) ∧ (Line.run 63).instr? = none := by decide

theorem witness_RgbSetsColourAndKeepsAlpha :
    let s := pixState init 3#8 [0xFE#8, 1#8, 2#8, 3#8]
    let u := pixState init 4#8 [0xFE#8, 1#8, 2#8]
    (s.cur.toNat + 4 ≤ s.chunkEnd ∧ s.positionFits = true ∧ s.ChannelsAdmitted) ∧ u.chunkEnd < u.cur.toNat + 4 := by decide
theorem witness_RgbaSetsAllFourChannels :
    let s := pixState init 4#8 [0xFF#8, 1#8, 2#8, 3#8, 4#8]
    let u := pixState init 4#8 [0xFF#8, 1#8, 2#8, 3#8]
    (s.cur.toNat + 5 ≤ s.chunkEnd ∧ s.positionFits = true ∧ s.ChannelsAdmitted) ∧ u.chunkEnd < u.cur.toNat + 5 := by decide
theorem witness_IndexReadsTheNamedSlot :
    let s := pixState init 4#8 [0x3F#8]
    s.positionFits = true ∧ s.ChannelsAdmitted := by decide
theorem witness_DiffAddsSmallDeltasModulo256 :
    let s := pixState init 3#8 [0x40#8]
    s.positionFits = true ∧ s.ChannelsAdmitted := by decide
theorem witness_LumaAddsDeltasRelativeToGreen :
    let s := pixState init 4#8 [0x80#8, 0x00#8]
    let u := pixState init 4#8 [0x80#8]
    (s.cur.toNat + 2 ≤ s.chunkEnd ∧ s.positionFits = true ∧ s.ChannelsAdmitted) ∧ u.chunkEnd < u.cur.toNat + 2 := by decide
theorem witness_RunSetsTheCounterWithoutInsert :
    let s := pixState init 4#8 [0xFD#8]
    (61#6).toNat ≤ 61 ∧ s.positionFits = true ∧ s.ChannelsAdmitted := by decide
theorem witness_FrameOfTheResolvingOpcodes :
    (Instr.luma 0#6 0#4 0#4).opClass ≠ .run ∧ ∃ t, exec (.luma 0#6 0#4 0#4) (pixState init 4#8 [0x80#8, 0x00#8]) = .next t :=
  ⟨by decide, _, rfl⟩
theorem witness_FrameOfTheRunOpcode : ∃ t, exec (.run 61#6) (pixState init 4#8 [0xFD#8]) = .next t := ⟨_, rfl⟩

/-- A position that OUT does not hold: capacity 3, 4 channels. -/
def crampedState : State := { pixState init 4#8 [0x00#8] with cfg := { Config.standard with outCapacity := 3 } }

theorem witness_OpcodesStopOnlyOutsideTheOutputMemory :
    exec (.index 0#6) crampedState = .fault .outOffsetAbsent ∧
    crampedState.cfg.outCapacity < crampedState.outBase + crampedState.desc.channels.toNat := ⟨rfl, by decide⟩
theorem witness_AlphaNeverReachesAThreeChannelImage :
    let s := pixState init 3#8 [0xFF#8, 1#8, 2#8, 3#8, 4#8]
    let c := Vector.replicate 64 (⟨0#8, 0#8, 0#8, 9#8⟩ : Pixel)
    s.desc.channels = 3#8 ∧
    (∀ k, (c.get k).r = (s.cache.get k).r ∧ (c.get k).g = (s.cache.get k).g ∧ (c.get k).b = (s.cache.get k).b) ∧
    (∃ t, exec (.index 5#6) s = .next t) ∧ (∃ t, exec (.rgba 1#8 2#8 3#8 4#8) s = .next t) ∧
    s.AtPixelStep ∧ ∃ t, step s = .next t :=
  ⟨rfl, by decide, ⟨_, rfl⟩, ⟨_, rfl⟩, ⟨rfl, rfl⟩, _, rfl⟩

theorem witness_StepRunsTheDecodedOpcode :
    (pixState init 4#8 [0xFD#8]).AtFetch ∧ decode (pixState init 4#8 [0xFD#8]).fetchBytes = .accepted (.run 61#6) [] :=
  ⟨pixState_atFetch, by decide⟩
theorem witness_StepRunsTheOpcodeInInputMemory :
    let s := pixState init 4#8 [0xFD#8]
    s.AtFetch ∧ (Instr.run 61#6).wf = true ∧ s.cur.toNat + (Instr.run 61#6).size ≤ s.chunkEnd ∧
      ∀ k b, (encode (.run 61#6))[k]? = some b → s.inByte (s.cur.toNat + k) = b := by
  refine ⟨pixState_atFetch, by decide, by decide, fun k b h => ?_⟩
  cases k with
  | zero => cases h; decide
  | succ k => simp [encode] at h
theorem witness_CutOpcodeRaisesOutOfBoundsRead :
    let s := pixState init 4#8 [0xFF#8, 1#8, 2#8]
    (s.AtFetch ∧ s.chunkEnd < s.cur.toNat + opLen (s.inByte s.cur.toNat)) ∧
    (pixState init 4#8 [0xFD#8]).AtFetch ∧
    opLen ((pixState init 4#8 [0xFD#8]).inByte (pixState init 4#8 [0xFD#8]).cur.toNat) = 1 :=
  ⟨⟨⟨⟨rfl, rfl⟩, rfl, by decide⟩, by decide⟩, pixState_atFetch, by decide⟩
theorem witness_PixelStepErrorsArePrecise :
    let s := pixState init 4#8 [0xFF#8, 1#8, 2#8]
    s.AtPixelStep ∧ ∃ t, step s = .next t ∧ t.phase = .error := ⟨⟨rfl, rfl⟩, _, rfl, by decide⟩
theorem witness_DecoderNeverWritesItsInput :
    (pixState init 4#8 [0xFD#8]).port.pending = [] ∧ ∃ t, step (pixState init 4#8 [0xFD#8]) = .next t := ⟨rfl, _, rfl⟩
theorem witness_RunRepeatEmitsThePreviousPixel :
    let s := { pixState init 4#8 [] with run := 1#6 }
    s.AtPixelStep ∧ s.run ≠ 0#6 ∧ s.positionFits = true ∧ s.ChannelsAdmitted := ⟨⟨rfl, rfl⟩, by decide, by decide, by decide⟩
theorem witness_ExhaustedInputReplaysTheLastPixel :
    let s := pixState init 3#8 []
    let u := { s with cfg := { Config.standard with trailerLen := 8 } }
    (14 + s.cfg.trailerLen = s.len.toNat ∧ s.AtPixelStep ∧ s.run = 0#6 ∧ s.chunkEnd ≤ s.cur.toNat ∧ s.positionFits = true ∧
      s.ChannelsAdmitted) ∧
    u.len.toNat < 14 + u.cfg.trailerLen :=
  ⟨⟨by decide, ⟨rfl, rfl⟩, rfl, by decide, by decide, by decide⟩, by decide⟩
theorem witness_RunTagEmitsOneMoreCopyThanItsField :
    let s := pixState init 4#8 [0xC3#8]
    s.Inv ∧ s.AtFetch ∧ (3#6).toNat ≤ 61 ∧ s.inByte s.cur.toNat = 0b11#2 ++ 3#6 ∧ 3 ≤ (3#6).toNat ∧
      s.pos.toNat + 3 < s.npix :=
  ⟨pixState_inv _ _ (by decide), ⟨⟨rfl, rfl⟩, rfl, by decide⟩, by decide, by decide, by decide, by decide⟩
theorem witness_OutputIsWrittenOncePerPosition :
    let s := pixState init 4#8 [0xFD#8]
    s.Inv ∧ s.AtPixelStep ∧ ∃ t, step s = .next t := ⟨pixState_inv _ _ (by decide), ⟨rfl, rfl⟩, _, rfl⟩
theorem witness_LastPositionEndsTheDecode :
    let s := pixState init 4#8 [0xFD#8]
    s.Inv ∧ s.AtPixelStep ∧ ∃ t, step s = .next t ∧ t.phase ≠ .error :=
  ⟨pixState_inv _ _ (by decide), ⟨rfl, rfl⟩, _, rfl, by decide⟩
theorem witness_EverySlotStaysEmptyOrAtItsHash :
    let s := pixState init 4#8 [0x6A#8]
    s.SlotsAtHash ∧ ∃ t, step s = .next t := ⟨(pixState_inv _ _ (by decide)).slots, _, rfl⟩
theorem witness_CurrentPixelStaysInTheCache :
    let s := pixState Pixel.zero 4#8 [0xC0#8]
    s.AtPixelStep ∧ s.cache.get (pixelHash s.px) = s.px ∧ ∃ t, step s = .next t := ⟨⟨rfl, rfl⟩, by decide, _, rfl⟩
theorem witness_InsertedPixelIsReadBackByIndex :
    let s := pixState init 4#8 [0xFE#8, 1#8, 2#8, 3#8]
    ∃ t, exec (.rgb 1#8 2#8 3#8) s = .next t ∧ t.phase ≠ .error ∧ t.positionFits = true := ⟨_, rfl, by decide, by decide⟩

theorem witness_StartBeginsADecode :
    let s := withMoves [.writeReg .ctrlStart 1#64] State.reset
    s.busy = false ∧ s.port.pending = [.writeReg .ctrlStart 1#64] := ⟨rfl, rfl⟩
theorem witness_StartIsIgnoredWhileBusy :
    let s := withMoves [.writeReg .ctrlStart 1#64] (pixState init 4#8 [])
    s.busy = true ∧ s.port.pending = [.writeReg .ctrlStart 1#64] ∧
      ∃ t, hostMove (.writeReg .ctrlStart 1#64) s = .next t := ⟨rfl, rfl, _, rfl⟩
theorem witness_BadSignatureRaisesFormatError :
    let s := headState [0x71#8, 0x6F#8, 0x69#8, 0x46#8]
    s.Inv ∧ s.AtHeaderStep ∧ ¬ s.Signed ∧
      ∀ a, a < 4 → a < s.len.toNat → (s.setIn (Memory.write s.inMem 4 7#8)).inByte a = s.inByte a :=
  ⟨headState_inv _, ⟨rfl, rfl⟩, fun h => absurd h.f (by decide), by decide⟩
theorem witness_ShortHeaderRaisesOutOfBoundsRead :
    let s := headState (header21.take 13)
    s.AtHeaderStep ∧ s.Signed ∧ s.len.toNat < 14 :=
  ⟨⟨rfl, rfl⟩, ⟨by decide, by decide, by decide, by decide, by decide⟩, by decide⟩
/-- The lengths at which the cases of a short header begin and end (R98). -/
theorem witness_ShortHeader_boundaries (n : Nat) (h : n = 4 ∨ n = 7 ∨ n = 8 ∨ n = 11 ∨ n = 12) :
    let s := headState (header21.take n)
    s.AtHeaderStep ∧ s.Signed ∧ s.len.toNat = n := by
  rcases h with rfl | rfl | rfl | rfl | rfl <;>
    exact ⟨⟨rfl, rfl⟩, ⟨by decide, by decide, by decide, by decide, by decide⟩, by decide⟩
theorem witness_DimensionsAreBigEndianWords :
    let s := headState (header21.take 12)
    s.AtHeaderStep ∧ s.Signed ∧ 8 ≤ s.len.toNat ∧ 12 ≤ s.len.toNat :=
  ⟨⟨rfl, rfl⟩, ⟨by decide, by decide, by decide, by decide, by decide⟩, by decide, by decide⟩
theorem witness_OtherChannelCountsRaiseChannelsError :
    let s := headState (headerBytes 1#32 1#32 5#8 7#8)
    s.AtHeaderStep ∧ s.Signed ∧ 14 ≤ s.len.toNat ∧ ¬ (s.inByte 12 = 3#8 ∨ s.inByte 12 = 4#8) :=
  ⟨⟨rfl, rfl⟩, ⟨by decide, by decide, by decide, by decide, by decide⟩, by decide, by decide⟩
theorem witness_ImageSizeDecidesAdmission :
    let s := headState header21
    let u := headState (headerBytes 0xFFFFFFFF#32 1#32 3#8 0#8)
    (s.Inv ∧ s.AtHeaderStep ∧ s.Signed ∧ 14 ≤ s.len.toNat ∧ (s.inByte 12 = 3#8 ∨ s.inByte 12 = 4#8) ∧
      ∃ t, step s = .next t ∧ t.desc.width.toNat * t.desc.height.toNat * t.desc.channels.toNat ≤ s.cfg.outCapacity) ∧
    (u.Inv ∧ u.AtHeaderStep ∧ u.Signed ∧ 14 ≤ u.len.toNat ∧ (u.inByte 12 = 3#8 ∨ u.inByte 12 = 4#8) ∧
      ∃ t, step u = .next t ∧ u.cfg.outCapacity < t.desc.width.toNat * t.desc.height.toNat * t.desc.channels.toNat) :=
  ⟨⟨headState_inv _, ⟨rfl, rfl⟩, signed_of_header, by decide, by decide, _, rfl, by decide⟩,
    ⟨headState_inv _, ⟨rfl, rfl⟩, ⟨by decide, by decide, by decide, by decide, by decide⟩, by decide, by decide, _, rfl,
      by decide⟩⟩
/-- The admission at its edges: an image of no pixels, and one that fills OUT exactly (R100, R101). -/
theorem witness_ImageSize_boundaries :
    let s := headState (headerBytes 0#32 5#32 3#8 0#8)
    let u := headState (headerBytes 512#32 512#32 4#8 0#8)
    (s.Inv ∧ s.AtHeaderStep ∧ s.Signed ∧ ∃ t, step s = .next t ∧ t.desc.width.toNat * t.desc.height.toNat = 0) ∧
    (u.Inv ∧ u.AtHeaderStep ∧ u.Signed ∧
      ∃ t, step u = .next t ∧ t.desc.width.toNat * t.desc.height.toNat * t.desc.channels.toNat = u.cfg.outCapacity) :=
  ⟨⟨headState_inv _, ⟨rfl, rfl⟩, ⟨by decide, by decide, by decide, by decide, by decide⟩, _, rfl, by decide⟩,
    ⟨headState_inv _, ⟨rfl, rfl⟩, ⟨by decide, by decide, by decide, by decide, by decide⟩, _, rfl, by decide⟩⟩
theorem witness_HeaderStepKeepsDatapathAndOutput : (headState header21).AtHeaderStep := ⟨rfl, rfl⟩
theorem witness_ErrorEntryWritesStatusOnly : State.reset.port.pending = [] := rfl
theorem witness_DecoderRestsOutsideADecode : State.reset.port.pending = [] ∧ State.reset.busy = false := ⟨rfl, rfl⟩
theorem witness_ErrorCodeIsNonZeroExactlyInError : (pixState init 4#8 [0xFD#8]).Inv := pixState_inv _ _ (by decide)

theorem witness_HostReadsTheControlFields :
    (withMoves [.readReg .statusState] State.reset).port.pending = [.readReg .statusState] ∧
    (withMoves [.readReg .statusErr] (pixState init 4#8 [])).port.pending = [.readReg .statusErr] := ⟨rfl, rfl⟩
theorem witness_InLengthWriteLeavesTheLatchedLength :
    (withMoves [.writeReg .inLength 20#64] (pixState init 4#8 [])).port.pending = [.writeReg .inLength 20#64] := rfl
theorem witness_HostMovesLeaveTheDecoderAlone :
    HostMove.writeReg .inLength 20#64 ≠ .reset ∧ HostMove.writeReg .inLength 20#64 ≠ .yield ∧
    (∀ v, HostMove.writeReg .inLength 20#64 ≠ .writeReg .ctrlStart v) ∧
    ∃ t, hostMove (.writeReg .inLength 20#64) (pixState init 4#8 []) = .next t :=
  ⟨by decide, by decide, fun v => by simp, _, rfl⟩
theorem witness_HostReadsOutputAfterCompletion :
    let s := withMoves [.readOut 1048575#64] State.reset
    s.busy = false ∧ (1048575#64).toNat < s.cfg.outCapacity ∧ s.port.pending = [.readOut 1048575#64] :=
  ⟨rfl, by decide, rfl⟩
theorem witness_HostReadOfOutputWhileBusyCompletes :
    let s := withMoves [.readOut 0#64] (pixState init 4#8 [])
    s.busy = true ∧ (0#64).toNat < s.cfg.outCapacity ∧ s.port.pending = [.readOut 0#64] := ⟨rfl, by decide, rfl⟩
theorem witness_HostAccessOutsideOutputMemoryFaults : State.reset.cfg.outCapacity ≤ (1048576#64).toNat := by decide
theorem witness_HostWritesAreRefusedWhileBusy :
    let s := pixState init 4#8 [0xFD#8]
    s.busy = true ∧ (14#64).toNat < s.len.toNat ∧ s.len.toNat ≤ (15#64).toNat ∧ (0#64).toNat < s.cfg.outCapacity := by decide
theorem witness_ResetRestoresTheResetValues :
    (withMoves [.reset] (pixState init 4#8 [0xFD#8])).port.pending = [.reset] := rfl
theorem witness_EveryStepKeepsTheInvariant :
    (pixState init 4#8 [0xFD#8]).Inv ∧ ∃ t, step (pixState init 4#8 [0xFD#8]) = .next t :=
  ⟨pixState_inv _ _ (by decide), _, rfl⟩
theorem witness_DecoderStepsNeverStop :
    (pixState init 4#8 [0xFD#8]).Inv ∧ (pixState init 4#8 [0xFD#8]).port.pending = [] := ⟨pixState_inv _ _ (by decide), rfl⟩
theorem witness_PixelStepsReachDoneOrOutOfBoundsRead :
    (pixState init 4#8 [0xFF#8]).Inv ∧ (pixState init 4#8 [0xFF#8]).AtPixelStep := ⟨pixState_inv _ _ (by decide), rfl, rfl⟩
theorem witness_EveryDecodeTerminates : (headState header21).Inv ∧ (headState header21).AtHeaderStep :=
  ⟨headState_inv _, rfl, rfl⟩
theorem witness_InputAtOrAboveTheLengthIsNeverRead :
    let s := pixState init 4#8 [0xFD#8]
    s.Inv ∧ s.port.pending = [] ∧
      (∀ a, a < s.len.toNat → (s.setIn (Memory.write s.inMem 15 0xAA#8)).inByte a = s.inByte a) ∧ ∃ t, step s = .next t := by
  refine ⟨pixState_inv _ _ (by decide), rfl, fun a ha => ?_, _, rfl⟩
  have ha : a < 15 := ha
  simp only [State.inByte, State.setIn_inMem]
  rw [Memory.read_write_other _ _ (by omega)]
theorem witness_StartForgetsTheEarlierDecode :
    let s := withMoves [.writeReg .ctrlStart 1#64] State.reset
    let u := { s with phase := .done, run := 4#6, px := Pixel.zero }
    s.busy = false ∧ u.busy = false ∧ s.cfg = u.cfg ∧ s.inLength = u.inLength ∧ s.inMem = u.inMem ∧ s.outMem = u.outMem ∧
      s.port = u.port ∧ s.port.pending = [.writeReg .ctrlStart 1#64] := ⟨rfl, rfl, rfl, rfl, rfl, rfl, rfl, rfl⟩
theorem witness_HostWritesStoreOneByte : State.reset.busy = false ∧ (0#64).toNat < State.reset.cfg.outCapacity :=
  ⟨rfl, by decide⟩

end Sys2Proof.Tests
end

section
/-! SUPPORT. Replacing IN commutes with the decoder's step where the bytes below `len` read the same (spec 20_memory.md R66). -/

namespace Sys2Proof.Machine

/-- IN may be replaced by `m` without changing any byte below the latched length. -/
def State.InputAgrees (s : State) (m : Memory) : Prop := ∀ a, a < s.len.toNat → (s.setIn m).inByte a = s.inByte a

/-- A step's outcome with IN replaced in the next state; a stop stays the same stop. -/
def withIn (m : Memory) : StepResult → StepResult
  | .next t => .next (t.setIn m)
  | .fault r => .fault r
  | .refused r => .refused r

@[simp] theorem withIn_next (m : Memory) (t : State) : withIn m (.next t) = .next (t.setIn m) := rfl
@[simp] theorem withIn_fault (m : Memory) (r : Fault) : withIn m (.fault r) = .fault r := rfl

/-! ### What reads no IN byte -/

section noRead
variable (m : Memory) (s : State)

theorem State.raise_setIn (k : ErrKind) : (s.setIn m).raise k = (s.raise k).setIn m := rfl

theorem State.opcodeFits_setIn (n : Nat) : (s.setIn m).opcodeFits n = s.opcodeFits n := rfl

theorem effect_setIn (i : Instr) : effect i (s.setIn m) = (effect i s).setIn m := by cases i <;> rfl

theorem State.finishPosition_setIn : (s.setIn m).finishPosition = withIn m s.finishPosition := by
  rw [State.finishPosition_eq, State.finishPosition_eq, State.setIn_positionFits]
  split <;> rfl

/-- An opcode once decoded reads no IN byte. -/
theorem exec_setIn (i : Instr) : exec i (s.setIn m) = withIn m (exec i s) := by
  rw [exec_eq, exec_eq, State.opcodeFits_setIn, effect_setIn, State.finishPosition_setIn, State.raise_setIn]
  split <;> rfl

theorem repeatStep_setIn : repeatStep (s.setIn m) = withIn m (repeatStep s) :=
  State.finishPosition_setIn m (s.setRun (s.run - 1#6))

theorem exhaustedStep_setIn : exhaustedStep (s.setIn m) = withIn m (exhaustedStep s) := State.finishPosition_setIn m s

theorem headerHandOver_setIn : headerHandOver (s.setIn m) = (headerHandOver s).setIn m := rfl

theorem headerAdmitSize_setIn : headerAdmitSize (s.setIn m) = (headerAdmitSize s).setIn m := by
  by_cases hc : s.cfg.outCapacity < s.npix * s.desc.channels.toNat
  · simp [headerAdmitSize, hc, State.raise_setIn]
  · simp [headerAdmitSize, hc, headerHandOver_setIn]

theorem headerAdmitChannels_setIn : headerAdmitChannels (s.setIn m) = (headerAdmitChannels s).setIn m := by
  simp only [headerAdmitChannels, State.setIn_desc, headerAdmitSize_setIn, State.raise_setIn, apply_ite (State.setIn m)]

end noRead

/-! ### The header step: each part reads its bytes only after its length check -/

section header
variable {m : Memory} {s : State}

theorem headerColorspace_setIn (h : s.InputAgrees m) : headerColorspace (s.setIn m) = (headerColorspace s).setIn m := by
  by_cases hl : s.len.toNat < 14
  · simp [headerColorspace, hl, State.raise_setIn]
  · simp only [headerColorspace, State.setIn_len, hl, if_false, h 13 (by omega)]
    exact headerAdmitChannels_setIn m ((s.setDesc _).setCur _)

theorem headerChannels_setIn (h : s.InputAgrees m) : headerChannels (s.setIn m) = (headerChannels s).setIn m := by
  by_cases hl : s.len.toNat < 13
  · simp [headerChannels, hl, State.raise_setIn]
  · simp only [headerChannels, State.setIn_len, hl, if_false, h 12 (by omega)]
    exact headerColorspace_setIn (s := (s.setDesc _).setCur _) h

theorem headerHeight_setIn (h : s.InputAgrees m) : headerHeight (s.setIn m) = (headerHeight s).setIn m := by
  by_cases hl : s.len.toNat < 12
  · simp [headerHeight, hl, State.raise_setIn]
  · simp only [headerHeight, State.setIn_len, hl, if_false, h 8 (by omega), h 9 (by omega), h 10 (by omega), h 11 (by omega)]
    exact headerChannels_setIn (s := (s.setDesc _).setCur _) h

theorem headerWidth_setIn (h : s.InputAgrees m) : headerWidth (s.setIn m) = (headerWidth s).setIn m := by
  by_cases hl : s.len.toNat < 8
  · simp [headerWidth, hl, State.raise_setIn]
  · simp only [headerWidth, State.setIn_len, hl, if_false, h 4 (by omega), h 5 (by omega), h 6 (by omega), h 7 (by omega)]
    exact headerHeight_setIn (s := (s.setDesc _).setCur _) h

theorem State.signatureGood_setIn (h : s.InputAgrees m) : (s.setIn m).signatureGood = s.signatureGood := by
  by_cases hl : 4 ≤ s.len.toNat
  · simp [State.signatureGood, hl, h 0 (by omega), h 1 (by omega), h 2 (by omega), h 3 (by omega)]
  · simp [State.signatureGood, hl]

theorem headerStep_setIn (h : s.InputAgrees m) : headerStep (s.setIn m) = (headerStep s).setIn m := by
  simp only [headerStep, State.signatureGood_setIn h]
  split
  · exact headerWidth_setIn (s := s.setCur _) h
  · rfl

end header

/-! ### The pixel step: a fetch stays inside the chunk region, which ends at or below the length -/

section pixel
variable {m : Memory} {s : State}

/-- The tag lies below the chunk region's end, and the data bytes are read only where the whole opcode does. -/
theorem State.fetchBytes_setIn (h : s.InputAgrees m) (hl : 14 ≤ s.len.toNat) (hc : s.cur.toNat < s.chunkEnd) :
    (s.setIn m).fetchBytes = s.fetchBytes := by
  have hend := State.chunkEnd_le_len hl
  simp only [State.fetchBytes, State.setIn_cur, State.opcodeFits_setIn, h _ (Nat.lt_of_lt_of_le hc hend)]
  split
  · rename_i hf
    have hfit := (s.opcodeFits_iff _).mp hf
    refine List.map_congr_left fun k hk => h _ ?_
    have := List.mem_range.mp hk
    omega
  · rfl

theorem fetchStep_setIn (h : s.InputAgrees m) (hl : 14 ≤ s.len.toNat) (hc : s.cur.toNat < s.chunkEnd) :
    fetchStep (s.setIn m) = withIn m (fetchStep s) := by
  simp only [fetchStep, State.fetchBytes_setIn h hl hc]
  split
  · exact exec_setIn m s _
  · rfl

theorem pixelStep_setIn (h : s.InputAgrees m) (hl : 14 ≤ s.len.toNat) :
    pixelStep (s.setIn m) = withIn m (pixelStep s) := by
  rcases pixelStep_cases s with ⟨hr, _⟩ | ⟨hr, hc, _⟩ | ⟨hr, hc, _⟩
  · simp [pixelStep, hr, repeatStep_setIn]
  · simp [pixelStep, hr, Nat.not_lt.mpr hc, exhaustedStep_setIn]
  · simp [pixelStep, hr, hc, fetchStep_setIn h hl hc]

end pixel

/-- The decoder's turn commutes with the replacement: in PIXELS the invariant gives the 14-byte header (R99 to R101). -/
theorem decoderStep_setIn {m : Memory} {s : State} (hi : s.Inv) (h : s.InputAgrees m) :
    decoderStep (s.setIn m) = withIn m (decoderStep s) := by
  cases hp : s.phase with
  | header => rw [decoderStep_header hp, decoderStep_header (s := s.setIn m) hp, headerStep_setIn h, withIn_next]
  | pixels =>
    rw [decoderStep_pixels hp, decoderStep_pixels (s := s.setIn m) hp]
    exact pixelStep_setIn h (hi.pixelsAdmitted hp).1.lengthHeader
  | idle | done | error => simp [decoderStep, hp]

/-- Settles O57: with no host move pending the step is the decoder's, and that commutes with the replacement of IN. -/
theorem inputAtOrAboveTheLengthIsNeverRead : Obligations.InputAtOrAboveTheLengthIsNeverRead := by
  intro s t m hi hp h ht
  rw [step_noMove hp] at ht
  rw [step_noMove (s := s.setIn m) hp, decoderStep_setIn hi h, ht, withIn_next]

end Sys2Proof.Machine
end

section
/-! SUPPORT. Each opcode class has one length, and given that many bytes the decoder consumes exactly them (spec 30_encoding.md R78, R80). -/

namespace Sys2Proof

/-- The length in bytes of every opcode of a class (R73). -/
def OpClass.size : OpClass → Nat
  | .rgb => 4
  | .rgba => 5
  | .luma => 2
  | .index | .diff | .run => 1

/-- The top two bits of a tag as a number, the form R80 speaks of. -/
theorem tagTop_toNat (t : Byte) : (tagTop t).toNat = t.toNat / 64 := by
  have ht : t.toNat < 256 := t.isLt
  rw [tagTop, BitVec.extractLsb'_toNat, Nat.shiftRight_eq_div_pow]
  omega

theorem tagTop_eq_luma_iff (t : Byte) : tagTop t = 0b10#2 ↔ t.toNat / 64 = 2 := by
  rw [← tagTop_toNat, BitVec.toNat_eq]
  rfl

/-- The tests of `opLen` and of `decodeTag` agree: the length of an opcode is that of the class its tag selects (R72, R80). -/
theorem opLen_eq_size_decodeTag (t : Byte) : opLen t = (decodeTag t).size := by
  simp only [opLen, decodeTag, apply_ite OpClass.size]
  by_cases hluma : tagTop t = 0b10#2 <;> simp [hluma, OpClass.size]

/-- The decoder accepts an opcode of `n` bytes, its tag included, and leaves the data bytes after it. -/
def Decoded.Consumes (d : Decoded) (ds : List Byte) (n : Nat) : Prop :=
  ∃ i : Instr, d = .accepted i (ds.drop (n - 1)) ∧ i.size = n

theorem decodeRgb_consumes {ds : List Byte} (h : 3 ≤ ds.length) : (decodeRgb ds).Consumes ds 4 := by
  match ds, h with
  | r :: g :: b :: _, _ => exact ⟨.rgb r g b, rfl, rfl⟩

theorem decodeRgba_consumes {ds : List Byte} (h : 4 ≤ ds.length) : (decodeRgba ds).Consumes ds 5 := by
  match ds, h with
  | r :: g :: b :: a :: _, _ => exact ⟨.rgba r g b a, rfl, rfl⟩

theorem decodeLuma_consumes (t : Byte) {ds : List Byte} (h : 1 ≤ ds.length) : (decodeLuma t ds).Consumes ds 2 := by
  match ds, h with
  | d :: _, _ => exact ⟨.luma (tagLow t) (d.extractLsb' 4 4) (d.extractLsb' 0 4), rfl, rfl⟩

/-- With `opLen` bytes there the decoder accepts an opcode of exactly that size, by the class of its tag. -/
theorem decode_consumes_opLen {t : Byte} {ds : List Byte} (h : opLen t ≤ ds.length + 1) :
    (decode (t :: ds)).Consumes ds (opLen t) := by
  rw [opLen_eq_size_decodeTag] at h ⊢
  rw [decode]
  cases hc : decodeTag t <;> rw [hc] at h
  case rgb => exact decodeRgb_consumes (Nat.le_of_succ_le_succ h)
  case rgba => exact decodeRgba_consumes (Nat.le_of_succ_le_succ h)
  case index => exact ⟨.index (tagLow t), rfl, rfl⟩
  case diff => exact ⟨diffOf t, rfl, rfl⟩
  case luma => exact decodeLuma_consumes t (Nat.le_of_succ_le_succ h)
  case run => exact ⟨.run (tagLow t), rfl, rfl⟩

/-- Settles O4: the two whole-byte tags by evaluation, the others by their top two bits, and the bytes consumed by class. -/
theorem opcodeLengthIsGivenByTheTag : Obligations.OpcodeLengthIsGivenByTheTag := by
  refine ⟨rfl, rfl, fun t hrgb hrgba => ?_, fun t ds h => decode_consumes_opLen h⟩
  simp only [opLen, hrgb, hrgba, if_false, tagTop_eq_luma_iff]

/-- Settles O6: the tags select the two colour classes, whose decoders read each data byte as it is. -/
theorem colourDataBytesAreVerbatim : Obligations.ColourDataBytesAreVerbatim :=
  fun _ _ _ _ _ => ⟨rfl, rfl⟩

end Sys2Proof
end

section
/-! SUPPORT. START, and what a host move does to a running decode (spec 40_header_parser.md R90, R91). -/

namespace Sys2Proof.Machine

section host
variable {s t : State} {a : BitVec 64} {b : Byte}

/-- The step of a pending control field write. -/
theorem step_writeReg {r : HostReg} {v : BitVec 64} {ms : List HostMove} (h : s.port.pending = .writeReg r v :: ms) :
    step s = .next ((s.setPort { s.port with pending := ms }).writeReg r v) := step_hostMove h

/-- Outside BUSY a 1 in CTRL.START begins a decode (R90). -/
theorem State.writeReg_ctrlStart_one (h : s.busy = false) : s.writeReg .ctrlStart 1#64 = s.start := by
  simp [State.writeReg, h]

/-- CTRL.START is ignored while BUSY, and 0 in it always (R29, R91). -/
theorem State.writeReg_ctrlStart_ignored {v : BitVec 64} (h : s.busy = true ∨ v = 0#64) : s.writeReg .ctrlStart v = s := by
  rcases h with hbusy | rfl
  · simp [State.writeReg, hbusy]
  · simp [State.writeReg]

/-- While BUSY the only control field a host write changes is IN_LENGTH, so the phase stays. -/
theorem State.writeReg_phase (h : s.busy = true) (r : HostReg) (v : BitVec 64) : (s.writeReg r v).phase = s.phase := by
  cases r with
  | ctrlStart => rw [State.writeReg_ctrlStart_ignored (.inl h)]
  | _ => rfl

theorem hostWriteIn_next (h : hostWriteIn a b s = .next t) : t = s.storeIn a b := by
  rw [hostWriteIn] at h
  split at h <;> cases h
  rfl

theorem hostWriteOut_next (h : hostWriteOut a b s = .next t) : t = s.storeOut a b := by
  rw [hostWriteOut] at h
  split at h
  · cases h
  · split at h <;> cases h
    rfl

theorem hostReadOut_next (h : hostReadOut a s = .next t) : ∃ p, t = s.setPort p := by
  rw [hostReadOut] at h
  split at h
  · cases h
  · split at h <;> cases h <;> exact ⟨_, rfl⟩

/-- Only reset and the decoder's own turn change the phase of a running decode. -/
theorem hostMove_keeps_phase_while_busy {m : HostMove} (hbusy : s.busy = true) (hreset : m ≠ .reset) (hyield : m ≠ .yield)
    (h : hostMove m s = .next t) : t.phase = s.phase := by
  cases m with
  | writeReg r v =>
    cases h
    exact State.writeReg_phase hbusy r v
  | readReg r =>
    cases h
    rfl
  | writeIn a b => rw [hostWriteIn_next h, State.storeIn_phase]
  | writeOut a b => rw [hostWriteOut_next h, State.storeOut_phase]
  | readOut a =>
    obtain ⟨p, rfl⟩ := hostReadOut_next h
    rfl
  | reset => exact absurd rfl hreset
  | yield => exact absurd rfl hyield

end host

/-- Settles O32: the step is the host's write, which is `State.start`; its fields are those of R90. -/
theorem startBeginsADecode : Obligations.StartBeginsADecode := by
  intro s ms hbusy hp
  refine ⟨(s.setPort { s.port with pending := ms }).start, ?_, rfl, rfl, rfl, fun k => ?_, rfl, rfl, rfl, rfl, rfl, rfl, rfl,
    rfl, rfl, rfl, rfl⟩
  · rw [step_writeReg hp, State.writeReg_ctrlStart_one (by rwa [State.setPort_busy])]
  · rw [State.start_cache, Vector.get_eq_getElem, Vector.getElem_replicate, Pixel.zero]

/-- Settles O33: an ignored write leaves the state the host's queue was taken from, and each other move keeps the phase. -/
theorem startIsIgnoredWhileBusy : Obligations.StartIsIgnoredWhileBusy := by
  refine ⟨fun s v ms h hp => ?_, fun m s t => hostMove_keeps_phase_while_busy⟩
  rw [step_writeReg hp, State.writeReg_ctrlStart_ignored (by rwa [State.setPort_busy])]

end Sys2Proof.Machine
end

section
/-! SUPPORT. What the header step leaves, by how many header bytes there are (spec 40_header_parser.md R92 to R99). -/

namespace Sys2Proof.Machine

/-- In HEADER with no host move pending the step is the header step. -/
theorem State.AtHeaderStep.step_eq {s : State} (h : s.AtHeaderStep) : step s = .next (headerStep s) := by
  rw [step_noMove h.noMove, decoderStep_header h.phase]

/-! ### The signature -/

/-- Without "qoif" the header step raises at once (R93). -/
theorem headerStep_unsigned {s : State} (h : ¬ s.Signed) : headerStep s = s.raise .formatError := by
  rw [headerStep, if_neg (mt (signatureGood_iff s).mp h)]

/-- The signature test reads only the first four bytes, and of those only the ones below `len` (R93). -/
theorem State.signed_setIn_of_firstFour {s : State} {m : Memory}
    (h : ∀ a, a < 4 → a < s.len.toNat → (s.setIn m).inByte a = s.inByte a) (hs : (s.setIn m).Signed) : s.Signed := by
  obtain ⟨hlen, hq, ho, hi, hf⟩ := hs
  rw [State.setIn_len] at hlen
  rw [h _ (by omega) (by omega)] at hq ho hi hf
  exact ⟨hlen, hq, ho, hi, hf⟩

/-- Settles O34: both the state and the one with IN replaced are unsigned, and the error entry reads no IN byte; the invariant
gives the cleared descriptor and cursor. -/
theorem badSignatureRaisesFormatError : Obligations.BadSignatureRaisesFormatError := by
  intro s hinv hat hs
  obtain ⟨_, _, _, hcur, _, hdesc⟩ := hinv.headerFresh hat.phase
  refine ⟨s.raise .formatError, ?_, rfl, rfl, hdesc, hcur, rfl, fun m hm => ?_⟩
  · rw [hat.step_eq, headerStep_unsigned hs]
  · have hat' : (s.setIn m).AtHeaderStep := ⟨hat.phase, hat.noMove⟩
    rw [hat'.step_eq, headerStep_unsigned (mt (State.signed_setIn_of_firstFour hm) hs), State.raise_setIn]

/-! ### The fields -/

/-- The descriptor with every header field that lies below `len` (R94 to R98). -/
def State.fieldsThatFit (s : State) : Descriptor :=
  ⟨if s.len.toNat < 8 then s.desc.width else be32 (s.inByte 4) (s.inByte 5) (s.inByte 6) (s.inByte 7),
    if s.len.toNat < 12 then s.desc.height else be32 (s.inByte 8) (s.inByte 9) (s.inByte 10) (s.inByte 11),
    if s.len.toNat < 13 then s.desc.channels else s.inByte 12,
    if s.len.toNat < 14 then s.desc.colorspace else s.inByte 13⟩

/-- The offset of the first field of a short header that does not fit (R98). -/
def State.firstMissingField (s : State) : BitVec 64 :=
  if s.len.toNat < 8 then 4#64 else if s.len.toNat < 12 then 8#64 else if s.len.toNat < 13 then 12#64 else 13#64

/-- A short header: the fields that fit are written, the cursor stands at the first that does not, and the step raises (R98). -/
theorem headerStep_short {s : State} (hs : s.Signed) (hl : s.len.toNat < 14) :
    headerStep s = ((s.setDesc s.fieldsThatFit).setCur s.firstMissingField).raise .outOfBoundsRead := by
  rw [headerStep, if_pos ((signatureGood_iff s).mpr hs), State.fieldsThatFit, State.firstMissingField]
  by_cases h8 : s.len.toNat < 8
  · have h12 : s.len.toNat < 12 := by omega
    have h13 : s.len.toNat < 13 := by omega
    simp [headerWidth, h8, h12, h13, hl, State.setDesc, State.setCur]
  by_cases h12 : s.len.toNat < 12
  · have h13 : s.len.toNat < 13 := by omega
    simp [headerWidth, headerHeight, h8, h12, h13, hl, State.setDesc, State.setCur, State.inByte]
  by_cases h13 : s.len.toNat < 13
  · simp [headerWidth, headerHeight, headerChannels, h8, h12, h13, hl, State.setDesc, State.setCur, State.inByte]
  · simp [headerWidth, headerHeight, headerChannels, headerColorspace, h8, h12, h13, hl, State.setDesc, State.setCur,
      State.inByte]

/-- Settles O35: the short header step, field by field. -/
theorem shortHeaderRaisesOutOfBoundsRead : Obligations.ShortHeaderRaisesOutOfBoundsRead := by
  intro s hat hs hl
  refine ⟨_, hat.step_eq.trans (congrArg _ (headerStep_short hs hl)), rfl, rfl, rfl, ?_⟩
  rw [State.raise_desc, State.setCur_desc, State.setDesc_desc, State.fieldsThatFit, if_pos hl]

/-! ### The admissions -/

/-- The admissions answer an error, or the end of the header with STATUS.ERR as it was (R99 to R101). -/
theorem headerAdmitChannels_cases (s : State) :
    (¬ s.ChannelsAdmitted ∧ headerAdmitChannels s = s.raise .channelsError) ∨
    (s.ChannelsAdmitted ∧ s.cfg.outCapacity < s.npix * s.desc.channels.toNat ∧
      headerAdmitChannels s = s.raise .allocationError) ∨
    (s.ChannelsAdmitted ∧ s.npix * s.desc.channels.toNat ≤ s.cfg.outCapacity ∧
      headerAdmitChannels s = s.setPhase (if s.npix = 0 then .done else .pixels)) := by
  by_cases hc : s.ChannelsAdmitted
  · by_cases hsize : s.cfg.outCapacity < s.npix * s.desc.channels.toNat
    · exact .inr (.inl ⟨hc, hsize, by rw [headerAdmitChannels, if_pos hc, headerAdmitSize, if_pos hsize]⟩)
    · exact .inr (.inr ⟨hc, Nat.le_of_not_lt hsize,
        by rw [headerAdmitChannels, if_pos hc, headerAdmitSize, if_neg hsize, headerHandOver]⟩)
  · exact .inl ⟨hc, by rw [headerAdmitChannels, if_neg hc]⟩

/-- The admissions write only the phase and STATUS.ERR: the descriptor, the cursor and OUT stay. -/
theorem headerAdmitChannels_keeps (s : State) :
    (headerAdmitChannels s).desc = s.desc ∧ (headerAdmitChannels s).cur = s.cur ∧
      (headerAdmitChannels s).outMem = s.outMem := by
  rcases headerAdmitChannels_cases s with ⟨_, e⟩ | ⟨_, _, e⟩ | ⟨_, _, e⟩ <;> rw [e] <;> exact ⟨rfl, rfl, rfl⟩

/-- ChannelsError is raised exactly for the channel counts that are not admitted (R99). -/
theorem headerAdmitChannels_channelsError_iff (s : State) :
    (headerAdmitChannels s).phase = .error ∧ (headerAdmitChannels s).err = .channelsError ↔ ¬ s.ChannelsAdmitted := by
  rcases headerAdmitChannels_cases s with ⟨hc, e⟩ | ⟨hc, _, e⟩ | ⟨hc, _, e⟩ <;> rw [e]
  · exact ⟨fun _ => hc, fun _ => ⟨rfl, rfl⟩⟩
  · exact ⟨fun ⟨_, herr⟩ => (nomatch herr), fun h => absurd hc h⟩
  · refine ⟨fun ⟨hphase, _⟩ => ?_, fun h => absurd hc h⟩
    rw [State.setPhase_phase] at hphase
    split at hphase <;> cases hphase

/-- However long the header, the step leaves the fields that fit in the descriptor (R92). -/
theorem headerStep_desc {s : State} (hs : s.Signed) : (headerStep s).desc = s.fieldsThatFit := by
  by_cases hl : s.len.toNat < 14
  · rw [headerStep_short hs hl]
    rfl
  · have h8 : ¬ s.len.toNat < 8 := by omega
    have h12 : ¬ s.len.toNat < 12 := by omega
    have h13 : ¬ s.len.toNat < 13 := by omega
    obtain ⟨hdesc, _, _⟩ := headerAdmitChannels_keeps (headerRead s)
    rw [headerStep_full hs (Nat.le_of_not_lt hl), hdesc]
    simp only [State.fieldsThatFit, h8, h12, h13, hl, if_false, headerRead, State.setCur_desc, State.setDesc_desc]

/-- Settles O36: where a dimension fits, its descriptor field is the big-endian word of its four bytes. -/
theorem dimensionsAreBigEndianWords : Obligations.DimensionsAreBigEndianWords := by
  intro s hat hs
  refine ⟨headerStep s, hat.step_eq, fun h8 => ?_, fun h12 => ?_⟩
  · rw [headerStep_desc hs, State.fieldsThatFit, if_neg (Nat.not_lt.mpr h8), be32_toNat]
  · rw [headerStep_desc hs, State.fieldsThatFit, if_neg (Nat.not_lt.mpr h12), be32_toNat]

/-- Settles O37: a full header reaches the admissions, which keep the fields read and raise ChannelsError exactly for the counts
not admitted. -/
theorem otherChannelCountsRaiseChannelsError : Obligations.OtherChannelCountsRaiseChannelsError := by
  intro s hat hs hl
  obtain ⟨hdesc, hcur, hout⟩ := headerAdmitChannels_keeps (headerRead s)
  exact ⟨_, hat.step_eq.trans (congrArg _ (headerStep_full hs hl)), hdesc, hcur, hout,
    (headerAdmitChannels_channelsError_iff (headerRead s)).symm⟩

end Sys2Proof.Machine
end

section
/-! SUPPORT. A fetch whose opcode the chunk region cuts short (spec 41_pixel_step.md R112, R113). -/

namespace Sys2Proof

/-- Only the tags of the classes with data bytes have a length other than 1 (R73, R80). -/
theorem decodeTag_of_opLen_ne_one {t : Byte} (h : opLen t ≠ 1) :
    decodeTag t = .rgb ∨ decodeTag t = .rgba ∨ decodeTag t = .luma := by
  rw [opLen_eq_size_decodeTag] at h
  cases hc : decodeTag t <;> rw [hc] at h
  case rgb | rgba | luma => simp
  case index | diff | run => exact absurd rfl h

/-- A tag that needs data bytes is no opcode by itself. -/
theorem decode_singleton_rejected {t : Byte} (h : opLen t ≠ 1) : decode [t] = .rejected (.cutShort (decodeTag t)) := by
  rw [decode]
  rcases decodeTag_of_opLen_ne_one h with hc | hc | hc <;> rw [hc] <;> rfl

end Sys2Proof

namespace Sys2Proof.Machine

section fetch
variable {s : State}

/-- At a fetch the step is the decoder's fetch and dispatch (R110). -/
theorem step_atFetch (h : s.AtFetch) : step s = fetchStep s := by
  obtain ⟨⟨hphase, hport⟩, hrun, hcur⟩ := h
  rw [step_noMove hport, decoderStep_pixels hphase, pixelStep, if_neg (not_not.mpr hrun), if_pos hcur]

/-- Where the opcode does not fit, the fetch reads its tag alone (R113). -/
theorem State.fetchBytes_cut (h : s.chunkEnd < s.cur.toNat + opLen (s.inByte s.cur.toNat)) :
    s.fetchBytes = [s.inByte s.cur.toNat] := by
  rw [State.fetchBytes, if_neg (mt (s.opcodeFits_iff _).mp (Nat.not_le.mpr h))]

/-- A fetch of a tag that needs data bytes raises where they do not fit: the decoder has the tag alone and rejects it. -/
theorem fetchStep_cut (hlen : opLen (s.inByte s.cur.toNat) ≠ 1)
    (h : s.chunkEnd < s.cur.toNat + opLen (s.inByte s.cur.toNat)) : fetchStep s = .next (s.raise .outOfBoundsRead) := by
  rw [fetchStep, State.fetchBytes_cut h, decode_singleton_rejected hlen]

end fetch

/-- Settles O21: a cut opcode is longer than one byte, since one byte fits at every fetch; its tag is of a class with data bytes,
and the fetch raises. -/
theorem cutOpcodeRaisesOutOfBoundsRead : Obligations.CutOpcodeRaisesOutOfBoundsRead := by
  intro s hat
  have hfits : opLen (s.inByte s.cur.toNat) = 1 → s.cur.toNat + opLen (s.inByte s.cur.toNat) ≤ s.chunkEnd := by
    intro hone
    rw [hone]
    exact hat.inRegion
  refine ⟨fun hcut => ?_, hfits⟩
  have hlen : opLen (s.inByte s.cur.toNat) ≠ 1 := mt hfits (Nat.not_le.mpr hcut)
  exact ⟨(step_atFetch hat).trans (fetchStep_cut hlen hcut), decodeTag_of_opLen_ne_one hlen⟩

end Sys2Proof.Machine
end

section
/-! SUPPORT. The decoder on the encodings of QOI_OP_DIFF and QOI_OP_LUMA, whose tags carry fields below their top two bits
(spec 30_encoding.md R72, R73). -/

namespace Sys2Proof

/-- A tag whose top two bits are not 11 is neither 0xFE nor 0xFF: those bits alone select its class (R72). -/
theorem decodeTag_of_tagTop_ne_three {t : Byte} (h : tagTop t ≠ 0b11#2) :
    decodeTag t = if tagTop t = 0b00#2 then .index else if tagTop t = 0b01#2 then .diff
      else if tagTop t = 0b10#2 then .luma else .run := by
  have hrgb : t ≠ 0xFE#8 := fun ht => h (ht ▸ rfl)
  have hrgba : t ≠ 0xFF#8 := fun ht => h (ht ▸ rfl)
  rw [decodeTag, if_neg hrgb, if_neg hrgba]

theorem decodeTag_of_tagTop_one {t : Byte} (h : tagTop t = 0b01#2) : decodeTag t = .diff := by
  rw [decodeTag_of_tagTop_ne_three (by rw [h]; decide), h]
  rfl

theorem decodeTag_of_tagTop_two {t : Byte} (h : tagTop t = 0b10#2) : decodeTag t = .luma := by
  rw [decodeTag_of_tagTop_ne_three (by rw [h]; decide), h]
  rfl

/-- The three fields of a QOI_OP_DIFF tag are the three fields its encoding was built from. -/
theorem diffOf_append (c dr dg db : BitVec 2) : diffOf (c ++ dr ++ dg ++ db) = .diff dr dg db := by
  have hred : (c ++ dr ++ dg ++ db).extractLsb' 4 2 = dr := by
    rw [BitVec.extractLsb'_append_eq_of_le (by decide), BitVec.extractLsb'_append_eq_of_le (by decide)]
    exact BitVec.extractLsb'_append_eq_right
  have hgreen : (c ++ dr ++ dg ++ db).extractLsb' 2 2 = dg := by
    rw [BitVec.extractLsb'_append_eq_of_le (by decide)]
    exact BitVec.extractLsb'_append_eq_right
  have hblue : (c ++ dr ++ dg ++ db).extractLsb' 0 2 = db := BitVec.extractLsb'_append_eq_right
  exact congr (congrArg₂ Instr.diff hred hgreen) hblue

theorem decode_diff (dr dg db : BitVec 2) (rest : List Byte) :
    decode ((0b01#2 ++ dr ++ dg ++ db) :: rest) = .accepted (.diff dr dg db) rest := by
  have htop : tagTop (0b01#2 ++ dr ++ dg ++ db) = 0b01#2 := by
    rw [tagTop, BitVec.extractLsb'_append_eq_of_le (by decide), BitVec.extractLsb'_append_eq_of_le (by decide)]
    exact BitVec.extractLsb'_append_eq_left
  rw [decode, decodeTag_of_tagTop_one htop, ← diffOf_append]

theorem decode_luma (dg : BitVec 6) (drg dbg : BitVec 4) (rest : List Byte) :
    decode ((0b10#2 ++ dg) :: (drg ++ dbg) :: rest) = .accepted (.luma dg drg dbg) rest := by
  have htop : tagTop (0b10#2 ++ dg) = 0b10#2 := BitVec.extractLsb'_append_eq_left
  have hgreen : tagLow (0b10#2 ++ dg) = dg := BitVec.extractLsb'_append_eq_right
  have hred : (drg ++ dbg).extractLsb' 4 4 = drg := BitVec.extractLsb'_append_eq_left
  have hblue : (drg ++ dbg).extractLsb' 0 4 = dbg := BitVec.extractLsb'_append_eq_right
  rw [decode, decodeTag_of_tagTop_two htop]
  simp only [decodeLuma, hgreen, hred, hblue]

end Sys2Proof
end

section
/-! SUPPORT. The opcodes that replace or add to the colour channels: each resolves its pixel where its bytes and its position fit
(spec 42_opcodes.md R130, R131, R133, R134). -/

namespace Sys2Proof.Machine

section resolving
variable {i : Instr} {s : State}

/-- An opcode whose effect resolves `p` ends its step with `p` resolved, where its bytes and its position fit. -/
theorem exec_resolved {p : Pixel} (heff : effect i s = s.resolve i.size p)
    (hfits : i.size = 1 ∨ s.cur.toNat + i.size ≤ s.chunkEnd) (hpos : s.positionFits = true) (hc : s.ChannelsAdmitted) :
    ∃ t, exec i s = .next t ∧ s.Resolved t i.size p :=
  ⟨_, exec_next hfits hpos, heff ▸ State.resolved_of_finish _ _ hc⟩

/-- An opcode that adds deltas to the colour channels: the sums are exact integers modulo 256, and alpha is kept (R136). -/
theorem exec_addDeltas {dr dg db : Int} (heff : effect i s = s.resolve i.size (addDeltas s.px dr dg db))
    (hfits : i.size = 1 ∨ s.cur.toNat + i.size ≤ s.chunkEnd) (hpos : s.positionFits = true) (hc : s.ChannelsAdmitted) :
    ∃ t, exec i s = .next t ∧ s.Resolved t i.size t.px ∧
      (t.px.r.toNat : Int) = (s.px.r.toNat + dr) % 256 ∧ (t.px.g.toNat : Int) = (s.px.g.toNat + dg) % 256 ∧
      (t.px.b.toNat : Int) = (s.px.b.toNat + db) % 256 ∧ t.px.a = s.px.a := by
  obtain ⟨t, ht, hres⟩ := exec_resolved heff hfits hpos hc
  have hpx : t.px = addDeltas s.px dr dg db := hres.px
  refine ⟨t, ht, hpx ▸ hres, ?_⟩
  rw [hpx]
  exact ⟨addDelta_toNat _ _, addDelta_toNat _ _, addDelta_toNat _ _, addDeltas_alpha _ _ _ _⟩

end resolving

/-- Settles O9: the opcode resolves the new colour with the old alpha, and its 4 bytes cut short raise. -/
theorem rgbSetsColourAndKeepsAlpha : Obligations.RgbSetsColourAndKeepsAlpha := by
  intro r g b s
  have hdecode := (colourDataBytesAreVerbatim r g b 0#8 []).1
  have hlong : (Instr.rgb r g b).size ≠ 1 := by simp [Instr.size]
  exact ⟨hdecode, fun hfits => exec_resolved rfl (.inr hfits), exec_raise hlong⟩

/-- Settles O10: the opcode resolves the pixel of its four data bytes, and its 5 bytes cut short raise. -/
theorem rgbaSetsAllFourChannels : Obligations.RgbaSetsAllFourChannels := by
  intro r g b a s
  have hdecode := (colourDataBytesAreVerbatim r g b a []).2
  have hlong : (Instr.rgba r g b a).size ≠ 1 := by simp [Instr.size]
  exact ⟨hdecode, fun hfits => exec_resolved rfl (.inr hfits), exec_raise hlong⟩

/-- Settles O12: the opcode adds three deltas, each its field minus 2 (`diffDelta`), and its one byte always fits. -/
theorem diffAddsSmallDeltasModulo256 : Obligations.DiffAddsSmallDeltasModulo256 := by
  intro dr dg db s
  exact ⟨decode_diff dr dg db [], exec_addDeltas rfl (.inl rfl)⟩

/-- Settles O13: the opcode adds green's delta (`lumaGreen`) and, to red and blue, their deltas relative to it (`lumaSide`); its
2 bytes cut short raise. -/
theorem lumaAddsDeltasRelativeToGreen : Obligations.LumaAddsDeltasRelativeToGreen := by
  intro dg drg dbg s
  have hlong : (Instr.luma dg drg dbg).size ≠ 1 := by simp [Instr.size]
  exact ⟨decode_luma dg drg dbg [], fun hfits => exec_addDeltas rfl (.inr hfits), exec_raise hlong⟩

end Sys2Proof.Machine
end

section
/-! SUPPORT. The decoder and the encoder are inverse to each other, and which bytes the decoder rejects (spec 30_encoding.md R72, R73,
R79, R82). -/

namespace Sys2Proof

/-! ### The decoder on the encodings of the one-byte opcodes with a 6-bit operand -/

theorem tagTop_append (c : BitVec 2) (f : BitVec 6) : tagTop (c ++ f) = c := BitVec.extractLsb'_append_eq_left

theorem tagLow_append (c : BitVec 2) (f : BitVec 6) : tagLow (c ++ f) = f := BitVec.extractLsb'_append_eq_right

theorem decode_index (i : BitVec 6) (rest : List Byte) : decode ((0b00#2 ++ i) :: rest) = .accepted (.index i) rest := by
  have hclass : decodeTag (0b00#2 ++ i) = .index := by
    rw [decodeTag_of_tagTop_ne_three (by rw [tagTop_append]; decide), tagTop_append]
    rfl
  rw [decode, hclass]
  simp only [tagLow_append]

/-- Fields 62 and 63 are the tags of QOI_OP_RGB and QOI_OP_RGBA, and only they are (R79). -/
theorem decodeTag_run {f : BitVec 6} (h : f.toNat ≤ 61) : decodeTag (0b11#2 ++ f) = .run := by
  have hrgb : (0b11#2 ++ f : Byte) ≠ 0xFE#8 := by
    intro ht
    have hf : f = 62#6 := by rw [← tagLow_append 0b11#2 f, ht]; rfl
    rw [hf] at h
    exact absurd h (by decide)
  have hrgba : (0b11#2 ++ f : Byte) ≠ 0xFF#8 := by
    intro ht
    have hf : f = 63#6 := by rw [← tagLow_append 0b11#2 f, ht]; rfl
    rw [hf] at h
    exact absurd h (by decide)
  rw [decodeTag, if_neg hrgb, if_neg hrgba, tagTop_append]
  rfl

theorem decode_run {f : BitVec 6} (h : f.toNat ≤ 61) (rest : List Byte) :
    decode ((0b11#2 ++ f) :: rest) = .accepted (.run f) rest := by
  rw [decode, decodeTag_run h]
  simp only [tagLow_append]

theorem decode_encode {i : Instr} (rest : List Byte) (h : i.wf = true) : decode (encode i ++ rest) = .accepted i rest := by
  cases i with
  | rgb r g b => rfl
  | rgba r g b a => rfl
  | index i => exact decode_index i rest
  | diff dr dg db => exact decode_diff dr dg db rest
  | luma dg drg dbg => exact decode_luma dg drg dbg rest
  | run f => exact decode_run (of_decide_eq_true h) rest

/-- Settles O1: the decoder reads each format back, QOI_OP_RUN's because its field is at most 61. -/
theorem decodeOfEncodeIsIdentity : Obligations.DecodeOfEncodeIsIdentity := fun _ rest => decode_encode rest

/-! ### What a tag is, by its class -/

/-- The shape of the tags of a class (R73, R79). -/
def OpClass.TagShape : OpClass → Byte → Prop
  | .rgb, t => t = 0xFE#8
  | .rgba, t => t = 0xFF#8
  | .index, t => tagTop t = 0b00#2
  | .diff, t => tagTop t = 0b01#2
  | .luma, t => tagTop t = 0b10#2
  | .run, t => tagTop t = 0b11#2 ∧ (tagLow t).toNat ≤ 61

theorem tagLow_toNat (t : Byte) : (tagLow t).toNat = t.toNat % 64 := by
  rw [tagLow, BitVec.extractLsb'_toNat, Nat.shiftRight_zero]

/-- A tag has the shape of the class that the tests of R72 select. -/
theorem decodeTag_tagShape (t : Byte) : (decodeTag t).TagShape t := by
  rw [decodeTag]
  split_ifs with hrgb hrgba hindex hdiff hluma
  · exact hrgb
  · exact hrgba
  · exact hindex
  · exact hdiff
  · exact hluma
  · have htop := tagTop_toNat t
    have hlow := tagLow_toNat t
    constructor <;> bv_omega

/-- A tag is its top two bits and its low six. -/
theorem tagTop_append_tagLow (t : Byte) : tagTop t ++ tagLow t = t :=
  BitVec.extractLsb'_append_extractLsb' (w := 2) (len := 6)

/-- A tag is its top two bits and the three fields of QOI_OP_DIFF (R73). -/
theorem tagTop_append_fields (t : Byte) :
    tagTop t ++ t.extractLsb' 4 2 ++ t.extractLsb' 2 2 ++ t.extractLsb' 0 2 = t := by
  rw [tagTop, BitVec.extractLsb'_append_extractLsb'_eq_extractLsb' (show 6 = 4 + 2 from rfl),
    BitVec.extractLsb'_append_extractLsb'_eq_extractLsb' (show 4 = 2 + 2 from rfl)]
  exact BitVec.extractLsb'_append_extractLsb' (w := 6) (len := 2)

/-! ### What the decoder accepts -/

theorem decodeRgb_accepted {ds rest : List Byte} {i : Instr} (h : decodeRgb ds = .accepted i rest) :
    ∃ r g b, i = .rgb r g b ∧ ds = r :: g :: b :: rest := by
  rw [decodeRgb.eq_def] at h
  split at h <;> cases h
  exact ⟨_, _, _, rfl, rfl⟩

theorem decodeRgba_accepted {ds rest : List Byte} {i : Instr} (h : decodeRgba ds = .accepted i rest) :
    ∃ r g b a, i = .rgba r g b a ∧ ds = r :: g :: b :: a :: rest := by
  rw [decodeRgba.eq_def] at h
  split at h <;> cases h
  exact ⟨_, _, _, _, rfl, rfl⟩

theorem decodeLuma_accepted {t : Byte} {ds rest : List Byte} {i : Instr} (h : decodeLuma t ds = .accepted i rest) :
    ∃ d, i = .luma (tagLow t) (d.extractLsb' 4 4) (d.extractLsb' 0 4) ∧ ds = d :: rest := by
  rw [decodeLuma.eq_def] at h
  split at h <;> cases h
  exact ⟨_, rfl, rfl⟩

/-- What the decoder accepts is well formed, and its encoding is the bytes consumed: by the class of the tag, whose shape gives back
the bits that the fields do not hold. -/
theorem encode_of_decode {bs rest : List Byte} {i : Instr} (h : decode bs = .accepted i rest) :
    i.wf = true ∧ encode i ++ rest = bs := by
  cases bs with
  | nil => cases h
  | cons t ds =>
    have hshape := decodeTag_tagShape t
    rw [decode] at h
    cases hc : decodeTag t <;> rw [hc] at h hshape
    case rgb =>
      obtain ⟨r, g, b, rfl, rfl⟩ := decodeRgb_accepted h
      exact ⟨rfl, congrArg (· :: _) hshape.symm⟩
    case rgba =>
      obtain ⟨r, g, b, a, rfl, rfl⟩ := decodeRgba_accepted h
      exact ⟨rfl, congrArg (· :: _) hshape.symm⟩
    case index =>
      cases h
      refine ⟨rfl, congrArg (· :: _) ?_⟩
      rw [← hshape, tagTop_append_tagLow]
    case diff =>
      cases h
      refine ⟨rfl, congrArg (· :: _) ?_⟩
      rw [← hshape, tagTop_append_fields]
    case luma =>
      obtain ⟨d, rfl, rfl⟩ := decodeLuma_accepted h
      refine ⟨rfl, congrArg₂ (fun x y => x :: y :: rest) ?_ (BitVec.extractLsb'_append_extractLsb' (w := 4) (len := 4))⟩
      rw [← hshape, tagTop_append_tagLow]
    case run =>
      obtain ⟨htop, hlow⟩ := hshape
      cases h
      refine ⟨decide_eq_true hlow, congrArg (· :: _) ?_⟩
      rw [← htop, tagTop_append_tagLow]

/-- Settles O2: by the class of the tag (`encode_of_decode`). -/
theorem encodeOfDecodeIsIdentity : Obligations.EncodeOfDecodeIsIdentity := fun _ _ _ => encode_of_decode

/-! ### Lengths, and what the decoder rejects -/

theorem encode_length (i : Instr) : (encode i).length = i.size := by cases i <;> rfl

/-- Every opcode has a tag byte (R71). -/
theorem encode_eq_cons (i : Instr) : ∃ t ds, encode i = t :: ds := by cases i <;> exact ⟨_, _, rfl⟩

/-- The tag of an encoded well-formed opcode gives its length (R80). -/
theorem opLen_of_encode {i : Instr} (hi : i.wf = true) {t : Byte} {ds : List Byte} (h : encode i = t :: ds) :
    opLen t = i.size := by
  cases i with
  | rgb r g b => exact (Laws.EncodedSize.rgb r g b hi).2 t ds h
  | rgba r g b a => exact (Laws.EncodedSize.rgba r g b a hi).2 t ds h
  | index i => exact (Laws.EncodedSize.index i hi).2 t ds h
  | diff dr dg db => exact (Laws.EncodedSize.diff dr dg db hi).2 t ds h
  | luma dg drg dbg => exact (Laws.EncodedSize.luma dg drg dbg hi).2 t ds h
  | run f => exact (Laws.EncodedSize.run f hi).2 t ds h

/-- The decoder accepts only bytes that hold the whole opcode of their tag: those it consumes are the opcode's encoding. -/
theorem opLen_le_of_decode {t : Byte} {ds rest : List Byte} {i : Instr} (h : decode (t :: ds) = .accepted i rest) :
    opLen t ≤ ds.length + 1 := by
  obtain ⟨hwf, hbytes⟩ := encode_of_decode h
  obtain ⟨t', ds', he⟩ := encode_eq_cons i
  rw [he, List.cons_append] at hbytes
  obtain ⟨rfl, rfl⟩ := List.cons.inj hbytes
  have hlen := encode_length i
  rw [he, List.length_cons, ← opLen_of_encode hwf he] at hlen
  rw [← hlen, List.length_append]
  omega

/-- Settles O5: with the whole opcode there the decoder consumes it, and what it accepts is there whole. -/
theorem decoderRejectsOnlyCutOpcodes : Obligations.DecoderRejectsOnlyCutOpcodes := by
  intro t ds
  constructor
  · rintro ⟨why, hrej⟩
    by_contra hle
    obtain ⟨i, hacc, _⟩ := decode_consumes_opLen (Nat.le_of_not_lt hle)
    rw [hrej] at hacc
    cases hacc
  · intro hcut
    cases hd : decode (t :: ds) with
    | accepted i rest => exact absurd (opLen_le_of_decode hd) (Nat.not_le.mpr hcut)
    | rejected why => exact ⟨why, rfl⟩

/-! ### The tag test as numbers -/

/-- A tag below 0xFE is of the class that its top two bits select (R72). -/
theorem decodeTag_of_lt {t : Byte} (h : t.toNat < 0xFE) :
    decodeTag t = if t.toNat / 64 = 0 then .index else if t.toNat / 64 = 1 then .diff
      else if t.toNat / 64 = 2 then .luma else .run := by
  have hrgb : t ≠ 0xFE#8 := by rintro rfl; exact absurd h (by decide)
  have hrgba : t ≠ 0xFF#8 := by rintro rfl; exact absurd h (by decide)
  rw [decodeTag, if_neg hrgb, if_neg hrgba, ← tagTop_toNat]
  simp only [BitVec.toNat_eq]
  rfl

/-- Settles O3: the two whole-byte tags by evaluation, the others by their top two bits. -/
theorem tagSelectsTheOpcodeClass : Obligations.TagSelectsTheOpcodeClass := by
  refine ⟨rfl, rfl, fun t ht => ?_⟩
  rw [decodeTag_of_lt ht]
  refine ⟨fun h => ?_, fun h => ?_, fun h => ?_, fun h => ?_⟩ <;> rw [h] <;> rfl

/-- Settles O7: each word is the encoding of its opcode. -/
theorem sampleWordsDecode : Obligations.SampleWordsDecode :=
  ⟨decode_encode (i := .index 23#6) [] rfl, decode_encode (i := .diff 1#2 1#2 1#2) [] rfl,
    decode_encode (i := .diff 3#2 0#2 0#2) [] rfl, decode_encode (i := .luma 32#6 8#4 8#4) [] rfl,
    decode_encode (i := .luma 0#6 15#4 0#4) [] rfl, decode_encode (i := .run 61#6) [] rfl,
    decode_encode (i := .rgb 1#8 2#8 3#8) [] rfl, decode_encode (i := .rgba 10#8 10#8 10#8 255#8) [] rfl⟩

end Sys2Proof
end

section
/-! SUPPORT. The opcode a listing line stands for (spec 30_encoding.md R83 to R85). -/

namespace Sys2Proof

/-! ### Lines with biased fields -/

section deltas
variable {d1 d2 d3 : Int} {i : Instr}

theorem Line.diff_instr?_eq_some :
    (Line.diff d1 d2 d3).instr? = some i ↔ ∃ fr fg fb, biasedField 2 2 d1 = some fr ∧ biasedField 2 2 d2 = some fg ∧
      biasedField 2 2 d3 = some fb ∧ i = .diff fr fg fb := by
  simp [Line.instr?, Option.bind_eq_some_iff, @eq_comm _ i]

theorem Line.luma_instr?_eq_some :
    (Line.luma d1 d2 d3).instr? = some i ↔ ∃ fg fr fb, biasedField 6 32 d1 = some fg ∧ biasedField 4 8 d2 = some fr ∧
      biasedField 4 8 d3 = some fb ∧ i = .luma fg fr fb := by
  simp [Line.instr?, Option.bind_eq_some_iff, @eq_comm _ i]

theorem Line.diff_instr?_isSome :
    (Line.diff d1 d2 d3).instr?.isSome = true ↔ (-2 ≤ d1 ∧ d1 ≤ 1) ∧ (-2 ≤ d2 ∧ d2 ≤ 1) ∧ (-2 ≤ d3 ∧ d3 ≤ 1) := by
  have h1 := biasedField_isSome 2 2 d1
  have h2 := biasedField_isSome 2 2 d2
  have h3 := biasedField_isSome 2 2 d3
  have hall : (Line.diff d1 d2 d3).instr?.isSome = true ↔
      (biasedField 2 2 d1).isSome = true ∧ (biasedField 2 2 d2).isSome = true ∧ (biasedField 2 2 d3).isSome = true := by
    simp [Option.isSome_iff_exists, Line.diff_instr?_eq_some]
  rw [hall, h1, h2, h3]
  omega

theorem Line.luma_instr?_isSome :
    (Line.luma d1 d2 d3).instr?.isSome = true ↔ (-32 ≤ d1 ∧ d1 ≤ 31) ∧ (-8 ≤ d2 ∧ d2 ≤ 7) ∧ (-8 ≤ d3 ∧ d3 ≤ 7) := by
  have h1 := biasedField_isSome 6 32 d1
  have h2 := biasedField_isSome 4 8 d2
  have h3 := biasedField_isSome 4 8 d3
  have hall : (Line.luma d1 d2 d3).instr?.isSome = true ↔
      (biasedField 6 32 d1).isSome = true ∧ (biasedField 4 8 d2).isSome = true ∧ (biasedField 4 8 d3).isSome = true := by
    simp [Option.isSome_iff_exists, Line.luma_instr?_eq_some]
  rw [hall, h1, h2, h3]
  omega

end deltas

/-! ### Lines with a number -/

theorem Line.index_instr?_eq_some {n : Nat} {i : Instr} :
    (Line.index n).instr? = some i ↔ n ≤ 63 ∧ i = .index (BitVec.ofNat 6 n) := by
  simp [Line.instr?, eq_comm]

theorem Line.run_instr?_eq_some {n : Nat} {i : Instr} :
    (Line.run n).instr? = some i ↔ (1 ≤ n ∧ n ≤ 62) ∧ i = .run (BitVec.ofNat 6 (n - 1)) := by
  simp [Line.instr?, eq_comm]

theorem Line.index_instr?_isSome {n : Nat} : (Line.index n).instr?.isSome = true ↔ n ≤ 63 := by
  simp [Option.isSome_iff_exists, Line.index_instr?_eq_some]

theorem Line.run_instr?_isSome {n : Nat} : (Line.run n).instr?.isSome = true ↔ 1 ≤ n ∧ n ≤ 62 := by
  simp [Option.isSome_iff_exists, Line.run_instr?_eq_some]

/-! ### The bytes of a line -/

/-- No line stands for run fields 62 and 63 (R84). -/
theorem Line.instr?_wf {l : Line} {i : Instr} (h : l.instr? = some i) : i.wf = true := by
  cases l with
  | header w h c cs => cases h
  | byte v => cases h
  | rgb r g b => cases h; rfl
  | rgba r g b a => cases h; rfl
  | index n =>
    obtain ⟨_, rfl⟩ := Line.index_instr?_eq_some.mp h
    rfl
  | diff dr dg db =>
    obtain ⟨_, _, _, _, _, _, rfl⟩ := Line.diff_instr?_eq_some.mp h
    rfl
  | luma dg drg dbg =>
    obtain ⟨_, _, _, _, _, _, rfl⟩ := Line.luma_instr?_eq_some.mp h
    rfl
  | run n =>
    obtain ⟨hn, rfl⟩ := Line.run_instr?_eq_some.mp h
    refine decide_eq_true ?_
    rw [BitVec.toNat_ofNat]
    omega

/-- The bytes of a line that is an opcode are the opcode's encoding. -/
theorem Line.bytes?_of_instr? {l : Line} {i : Instr} (h : l.instr? = some i) : l.bytes? = some (encode i) := by
  cases l with
  | header w h c cs => cases h
  | byte v => cases h
  | _ => exact congrArg (Option.map encode) h

/-- Settles O8: line by line, and the bytes of each decode by O1. -/
theorem listingLinesAssembleInRange : Obligations.ListingLinesAssembleInRange := by
  refine ⟨fun dr dg db => ⟨Line.diff_instr?_isSome, fun i hi => ?_⟩,
    fun dg drg dbg => ⟨Line.luma_instr?_isSome, fun i hi => ?_⟩, fun n => ⟨Line.index_instr?_isSome, fun i hi => ?_⟩,
    fun n => ⟨Line.run_instr?_isSome, fun i hi => ?_⟩, fun r g b a => ⟨rfl, rfl⟩, fun l i hi => ?_⟩
  · obtain ⟨fr, fg, fb, hr, hg, hb, rfl⟩ := Line.diff_instr?_eq_some.mp hi
    exact ⟨fr, fg, fb, rfl, biasedField_toNat hr, biasedField_toNat hg, biasedField_toNat hb⟩
  · obtain ⟨fg, fr, fb, hg, hr, hb, rfl⟩ := Line.luma_instr?_eq_some.mp hi
    exact ⟨fg, fr, fb, rfl, biasedField_toNat hg, biasedField_toNat hr, biasedField_toNat hb⟩
  · obtain ⟨hn, rfl⟩ := Line.index_instr?_eq_some.mp hi
    exact ⟨_, rfl, by rw [BitVec.toNat_ofNat]; omega⟩
  · obtain ⟨hn, rfl⟩ := Line.run_instr?_eq_some.mp hi
    exact ⟨_, rfl, by rw [BitVec.toNat_ofNat]; omega⟩
  · exact ⟨encode i, Line.bytes?_of_instr? hi, by simpa using decode_encode [] (Line.instr?_wf hi)⟩

end Sys2Proof
end

section
/-! SUPPORT. A pixel step as a move of the datapath registers followed by the end of the position (spec 41_pixel_step.md R110): what the
moves keep, what they do to each register, and the position they finish. -/

namespace Sys2Proof.Machine

/-! ### The moves -/

/-- `u` is `s` but for the datapath registers px, run, cache and cur. -/
structure State.SameOutside (s u : State) : Prop where
  pos : u.pos = s.pos
  desc : u.desc = s.desc
  outMem : u.outMem = s.outMem
  inMem : u.inMem = s.inMem
  phase : u.phase = s.phase
  err : u.err = s.err
  len : u.len = s.len
  inLength : u.inLength = s.inLength
  cfg : u.cfg = s.cfg
  port : u.port = s.port

/-- How a pixel step moves the datapath before it finishes its position: run repeat (R111), the exhausted path (R116), or an opcode
that fits in the chunk region (R112, R113). -/
inductive DatapathMove (s : State) : State → Prop where
  | runRepeat (hrun : s.run ≠ 0#6) : DatapathMove s (s.setRun (s.run - 1#6))
  | replay (hrun : s.run = 0#6) (hend : s.chunkEnd ≤ s.cur.toNat) : DatapathMove s s
  | opcode (i : Instr) (rest : List Byte) (hrun : s.run = 0#6) (hcur : s.cur.toNat < s.chunkEnd)
      (hdecode : decode s.fetchBytes = .accepted i rest) (hfits : s.cur.toNat + i.size ≤ s.chunkEnd) :
      DatapathMove s (effect i s)

/-- The inversion of a pixel step: it raises, or it moves the datapath and finishes its position. -/
theorem pixelStep_move {s t : State} (h : pixelStep s = .next t) :
    (s.run = 0#6 ∧ s.cur.toNat < s.chunkEnd ∧ t = s.raise .outOfBoundsRead) ∨
    (s.positionFits = true ∧ ∃ u, DatapathMove s u ∧ t = u.writeOutput.nextPosition) := by
  rcases pixelStep_next h with hraise | ⟨hpos, ⟨hrun, rfl⟩ | ⟨hrun, hend, rfl⟩ | ⟨hrun, hcur, i, rest, hdecode, hsize, rfl⟩⟩
  · exact .inl hraise
  · exact .inr ⟨hpos, _, .runRepeat hrun, rfl⟩
  · exact .inr ⟨hpos, _, .replay hrun hend, rfl⟩
  · rw [State.opcodeFits_iff] at hsize
    exact .inr ⟨hpos, _, .opcode i rest hrun hcur hdecode (by omega), rfl⟩

theorem effect_sameOutside (i : Instr) (s : State) : s.SameOutside (effect i s) := by
  obtain ⟨hpos, hdesc, hout, hin, hphase, herr, hlen, hinLength, hcfg, hport, _⟩ := effect_fields i s
  exact ⟨hpos, hdesc, hout, hin, hphase, herr, hlen, hinLength, hcfg, hport⟩

theorem DatapathMove.sameOutside {s u : State} (h : DatapathMove s u) : s.SameOutside u := by
  cases h with
  | runRepeat | replay => exact ⟨rfl, rfl, rfl, rfl, rfl, rfl, rfl, rfl, rfl, rfl⟩
  | opcode i => exact effect_sameOutside i s

/-! ### The registers after a move -/

section registers
variable {s u : State}

/-- An opcode is QOI_OP_RUN or resolves a pixel. -/
theorem effect_cases (i : Instr) (s : State) : (∃ f, i = .run f) ∨ ∃ p, effect i s = s.resolve i.size p := by
  by_cases hclass : i.opClass = .run
  · cases i with
    | run f => exact .inl ⟨f, rfl⟩
    | _ => cases hclass
  · obtain ⟨p, hp, _⟩ := effect_resolve s hclass
    exact .inr ⟨p, hp⟩

theorem run_sub_one_toNat {r : BitVec 6} (h : r ≠ 0#6) : (r - 1#6).toNat = r.toNat - 1 := by bv_omega

/-- The counter never rises above 61: a decoded run field is at most 61 (R22, R79). -/
theorem DatapathMove.run_le (h : DatapathMove s u) (hs : s.run.toNat ≤ 61) : u.run.toNat ≤ 61 := by
  cases h with
  | runRepeat hrun =>
    rw [State.setRun_run, run_sub_one_toNat hrun]
    omega
  | replay => exact hs
  | opcode i rest _ _ hdecode _ =>
    obtain ⟨hwf, _⟩ := encode_of_decode hdecode
    rcases effect_cases i s with ⟨f, rfl⟩ | ⟨p, hp⟩
    · exact of_decide_eq_true hwf
    · rwa [hp, State.resolve_run]

/-- A move leaves the cursor inside the chunk region (R114). -/
theorem DatapathMove.cur_bounds (h : DatapathMove s u) (hs : s.cur.toNat ≤ s.chunkEnd) :
    s.cur.toNat ≤ u.cur.toNat ∧ u.cur.toNat ≤ s.chunkEnd := by
  cases h with
  | runRepeat | replay => exact ⟨Nat.le_refl _, hs⟩
  | opcode i _ _ _ _ hfits =>
    obtain ⟨_, _, _, _, _, _, _, _, _, _, hcur⟩ := effect_fields i s
    have hadv := State.advance_toNat ((s.opcodeFits_iff i.size).mpr hfits)
    rw [State.advance_cur, ← hcur] at hadv
    omega

/-- Every effect keeps each slot empty or at its hash: the insert is at the hash (R115, R120). -/
theorem effect_slotsAtHash {i : Instr} (h : s.SlotsAtHash) : (effect i s).SlotsAtHash := by
  rcases effect_cases i s with ⟨f, rfl⟩ | ⟨p, hp⟩
  · exact h
  · intro k
    rw [hp, State.resolve_slot]
    split
    next hk => exact .inr hk.symm
    next => exact h k

theorem DatapathMove.slotsAtHash (h : DatapathMove s u) (hs : s.SlotsAtHash) : u.SlotsAtHash := by
  cases h with
  | runRepeat | replay => exact hs
  | opcode => exact effect_slotsAtHash hs

/-- Every effect leaves the current pixel in its slot: QOI_OP_RUN changes neither, the others insert it (R115, R120). -/
theorem effect_currentPixelInCache {i : Instr} (h : s.cache.get (pixelHash s.px) = s.px) :
    (effect i s).cache.get (pixelHash (effect i s).px) = (effect i s).px := by
  rcases effect_cases i s with ⟨f, rfl⟩ | ⟨p, hp⟩
  · exact h
  · rw [hp, State.resolve_slot, State.resolve_px, if_pos rfl]

end registers

/-! ### The finished position -/

section finished
variable {s u : State}

/-- The position finished after a move is that of the state before it. -/
theorem State.SameOutside.outBase (h : s.SameOutside u) : u.outBase = s.outBase := by
  rw [State.outBase, State.outBase, h.pos, h.desc]

/-- Outside the bytes of its position a finished move leaves OUT as it was (R117). -/
theorem State.SameOutside.outByte_finish (h : s.SameOutside u) {a : Nat}
    (ha : a < s.outBase ∨ s.outBase + s.desc.channels.toNat ≤ a) :
    u.writeOutput.nextPosition.outByte a = s.outByte a := by
  rw [State.nextPosition_outByte, u.writeOutput_outside (by rwa [h.outBase, h.desc]), State.outByte, State.outByte, h.outMem,
    h.port]

/-- What a finished move keeps, whatever the opcode. -/
theorem State.SameOutside.kept (h : s.SameOutside u) : s.Kept u.writeOutput.nextPosition where
  len := h.len
  inLength := h.inLength
  err := h.err
  desc := h.desc
  inMem := h.inMem
  cfg := h.cfg
  port := h.port

theorem State.SameOutside.phase_finish (h : s.SameOutside u) :
    u.writeOutput.nextPosition.phase = if s.pos.toNat + 1 = s.npix then .done else s.phase := by
  rw [State.nextPosition_phase, State.writeOutput_pos, State.writeOutput_phase, State.writeOutput_npix, State.npix, h.pos, h.phase,
    h.desc, State.npix]

end finished

end Sys2Proof.Machine
end

section
/-! SUPPORT. The one-byte opcodes, the frames of all opcodes, and where an opcode stops (spec 42_opcodes.md; 20_memory.md R51, R59). -/

namespace Sys2Proof.Machine

/-- A slot number as the number it is. -/
theorem toFin_eq_ofNat (i : BitVec 6) : i.toFin = Fin.ofNat 64 i.toNat := by
  ext
  exact (Nat.mod_eq_of_lt i.isLt).symm

/-- Settles O11: the opcode resolves the slot it names, and its one byte always fits. -/
theorem indexReadsTheNamedSlot : Obligations.IndexReadsTheNamedSlot := by
  intro i s
  refine ⟨decode_index i [], fun hpos hc => ?_⟩
  rw [← toFin_eq_ofNat]
  exact exec_resolved rfl (.inl rfl) hpos hc

/-- Settles O14: the opcode sets the counter and passes its byte, and the position is finished with the pixel before it. -/
theorem runSetsTheCounterWithoutInsert : Obligations.RunSetsTheCounterWithoutInsert := by
  intro f s hf
  refine ⟨decode_run hf [], fun hpos hc => ?_⟩
  have hsame := effect_sameOutside (.run f) s
  exact ⟨_, exec_next (.inl rfl) hpos, rfl, rfl, rfl, rfl, hsame.kept,
    State.emitted_of_finish hc hsame.pos hsame.desc hsame.outMem hsame.port hsame.phase⟩

theorem State.Kept.inByte {s t : State} (h : s.Kept t) (a : Nat) : t.inByte a = s.inByte a := by
  rw [State.inByte, State.inByte, h.inMem]

/-- Settles O15: a cut opcode raises, which touches STATUS alone; any other resolves a pixel and finishes its position. -/
theorem frameOfTheResolvingOpcodes : Obligations.FrameOfTheResolvingOpcodes := by
  intro i s t hclass h
  rcases exec_cases h with ⟨_, _, rfl⟩ | ⟨_, _, rfl⟩
  · exact ⟨rfl, rfl, rfl, rfl, rfl, rfl, .inr rfl, fun _ _ => rfl, fun _ => rfl, fun _ => rfl, fun _ _ => rfl⟩
  · have hsame := effect_sameOutside i s
    have hkept := hsame.kept
    have hout : ∀ a, a < s.outBase ∨ s.outBase + s.desc.channels.toNat ≤ a →
        (effect i s).writeOutput.nextPosition.outByte a = s.outByte a := fun a => hsame.outByte_finish
    obtain ⟨p, hp, halpha⟩ := effect_resolve s hclass
    rw [hp] at hkept hout ⊢
    refine ⟨rfl, rfl, rfl, rfl, rfl, rfl, .inl rfl, fun k hk => ?_, halpha, hkept.inByte, hout⟩
    rw [State.nextPosition_cache, State.writeOutput_cache, State.resolve_slot]
    exact if_neg hk

/-- Settles O16: one byte always fits, so the opcode sets the counter and finishes its position. -/
theorem frameOfTheRunOpcode : Obligations.FrameOfTheRunOpcode := by
  intro f s t h
  rcases exec_cases h with ⟨_, hlong, _⟩ | ⟨_, _, rfl⟩
  · exact absurd rfl hlong
  · have hsame := effect_sameOutside (.run f) s
    exact ⟨rfl, rfl, rfl, rfl, rfl, rfl, rfl, rfl, hsame.kept.inByte, fun a => hsame.outByte_finish⟩

/-- Settles O17: a cut opcode raises, and any other ends as its position does, with a fault exactly where OUT has no byte for it. -/
theorem opcodesStopOnlyOutsideTheOutputMemory : Obligations.OpcodesStopOnlyOutsideTheOutputMemory := by
  intro i s
  rw [exec_eq, State.finishPosition_eq, effect_positionFits, ← State.opcodeFits_iff, ← Nat.not_le, ← State.positionFits_iff]
  by_cases hfits : i.size = 1 ∨ s.opcodeFits i.size = true
  · by_cases hpos : s.positionFits = true <;> simp [hfits, hpos]
  · simp [hfits]

/-- Settles O31: the opcode left its pixel in the slot at the pixel's hash, and QOI_OP_INDEX of that slot resolves it. -/
theorem insertedPixelIsReadBackByIndex : Obligations.InsertedPixelIsReadBackByIndex := by
  intro i s t hclass h hphase hpos
  have hslot : t.cache.get (pixelHash t.px) = t.px := by
    rcases exec_cases h with ⟨_, _, rfl⟩ | ⟨_, _, rfl⟩
    · exact absurd rfl hphase
    · obtain ⟨p, hp, _⟩ := effect_resolve s hclass
      rw [hp, State.nextPosition_cache, State.writeOutput_cache, State.resolve_slot]
      exact if_pos rfl
  refine ⟨_, exec_next (.inl rfl) hpos, ?_⟩
  have hindex : (BitVec.ofNat 6 (pixelHash t.px).val).toFin = pixelHash t.px := by
    ext
    exact Nat.mod_eq_of_lt (pixelHash t.px).isLt
  calc (effect (.index (BitVec.ofNat 6 (pixelHash t.px).val)) t).px
      = t.cache.get (BitVec.ofNat 6 (pixelHash t.px).val).toFin := rfl
    _ = t.px := by rw [hindex, hslot]

end Sys2Proof.Machine
end

section
/-! SUPPORT. How the header step can end, and what it leaves alone (spec 40_header_parser.md R92, R99 to R101). -/

namespace Sys2Proof.Machine

theorem State.Inv.noError {s : State} (h : s.Inv) (hphase : s.phase ≠ .error) : s.err = .noError := h.errExact.mpr hphase

theorem State.npix_congr {s t : State} (h : t.desc = s.desc) : t.npix = s.npix := congrArg Descriptor.npix h

/-- The header step raises, having written only the descriptor and the cursor, which stays where it was or at or below the length; or
the image is admitted and the header handed over. -/
theorem headerStep_cases (s : State) :
    (∃ k d c, k ≠ ErrKind.noError ∧ (c = s.cur ∨ c.toNat ≤ s.len.toNat) ∧
      headerStep s = ((s.setDesc d).setCur c).raise k) ∨
    (14 ≤ s.len.toNat ∧ (headerRead s).ChannelsAdmitted ∧
      (headerRead s).npix * (headerRead s).desc.channels.toNat ≤ s.cfg.outCapacity ∧
      headerStep s = (headerRead s).setPhase (if (headerRead s).npix = 0 then .done else .pixels)) := by
  by_cases hs : s.Signed
  · by_cases hl : s.len.toNat < 14
    · refine .inl ⟨.outOfBoundsRead, s.fieldsThatFit, s.firstMissingField, nofun, .inr ?_, headerStep_short hs hl⟩
      have h4 := hs.length
      simp only [State.firstMissingField]
      split_ifs <;> simp only [BitVec.toNat_ofNat] <;> omega
    · have hl : 14 ≤ s.len.toNat := Nat.le_of_not_lt hl
      rw [headerStep_full hs hl]
      rcases headerAdmitChannels_cases (headerRead s) with ⟨_, e⟩ | ⟨_, _, e⟩ | ⟨hc, hsize, e⟩
      · exact .inl ⟨.channelsError, _, 14#64, nofun, .inr hl, e⟩
      · exact .inl ⟨.allocationError, _, 14#64, nofun, .inr hl, e⟩
      · exact .inr ⟨hl, hc, hsize, e⟩
  · exact .inl ⟨.formatError, s.desc, s.cur, nofun, .inl rfl, headerStep_unsigned hs⟩

/-- Settles O39: neither the error entry nor the hand-over, nor the descriptor and cursor writes before them, touch the datapath, the
memories or the host's fields. -/
theorem headerStepKeepsDatapathAndOutput : Obligations.HeaderStepKeepsDatapathAndOutput := by
  intro s hat
  refine ⟨headerStep s, hat.step_eq, ?_⟩
  rcases headerStep_cases s with ⟨k, d, c, _, _, e⟩ | ⟨_, _, _, e⟩ <;> rw [e]
  · exact ⟨rfl, rfl, rfl, rfl, rfl, rfl, rfl, rfl, rfl, rfl, .inr (.inr rfl)⟩
  · refine ⟨rfl, rfl, rfl, rfl, rfl, rfl, rfl, rfl, rfl, rfl, ?_⟩
    rw [State.setPhase_phase]
    split
    · exact .inr (.inl rfl)
    · exact .inl rfl

/-- Settles O38: the channels are admitted, so the exact size decides; STATUS.ERR and pos are as START left them. -/
theorem imageSizeDecidesAdmission : Obligations.ImageSizeDecidesAdmission := by
  intro s t hinv hat hs hl hchannels ht
  have hfresh := hinv.headerFresh hat.phase
  have hnoError := hinv.noError (by rw [hat.phase]; nofun)
  rw [hat.step_eq, headerStep_full hs hl] at ht
  cases ht
  rcases headerAdmitChannels_cases (headerRead s) with ⟨hc, _⟩ | ⟨_, hsize, e⟩ | ⟨_, hsize, e⟩
  · exact absurd hchannels hc
  · rw [e]
    exact ⟨fun _ => ⟨rfl, rfl⟩, fun hfits => absurd hsize (Nat.not_lt.mpr hfits)⟩
  · rw [e]
    exact ⟨fun hover => absurd hsize (Nat.not_le.mpr hover), fun _ => ⟨hnoError, hfresh.pos, rfl⟩⟩

end Sys2Proof.Machine
end

section
/-! SUPPORT. What a host move can do to the block (spec 10_state.md R20; 20_memory.md). -/

namespace Sys2Proof.Machine

/-- The effects of the host's moves other than START, reset and yielding: they write the host's own fields, IN, or a byte of OUT that
exists. -/
inductive HostEffect (s : State) : State → Prop where
  | setPort (p : HostPort) : HostEffect s (s.setPort p)
  | setInLength (v : BitVec 64) : HostEffect s (s.setInLength v)
  | storeIn (a : BitVec 64) (b : Byte) : HostEffect s (s.storeIn a b)
  | storeOut (a : BitVec 64) (b : Byte) (ha : a.toNat < s.cfg.outCapacity) : HostEffect s (s.storeOut a b)

/-- A write of a control field begins a decode, writes IN_LENGTH or is ignored. -/
theorem State.writeReg_cases (s : State) (r : HostReg) (v : BitVec 64) :
    (r = .ctrlStart ∧ s.writeReg r v = s.start) ∨ HostEffect s (s.writeReg r v) := by
  have hkeep : HostEffect s s := .setPort s.port
  cases r with
  | ctrlStart =>
    rw [State.writeReg]
    split
    · exact .inl ⟨rfl, rfl⟩
    · exact .inr hkeep
  | inLength => exact .inr (.setInLength v)
  | _ => exact .inr hkeep

theorem hostWriteOut_offset {s t : State} {a : BitVec 64} {b : Byte} (h : hostWriteOut a b s = .next t) :
    a.toNat < s.cfg.outCapacity := by
  by_contra hcap
  rw [hostWriteOut, if_pos (Nat.le_of_not_lt hcap)] at h
  cases h

/-- The inversion of a host move. -/
theorem hostMove_cases {m : HostMove} {s t : State} (h : hostMove m s = .next t) :
    (m = .yield ∧ decoderStep s = .next t) ∨ (m = .reset ∧ t = s.hardReset) ∨
    ((∃ v, m = .writeReg .ctrlStart v) ∧ t = s.start) ∨ HostEffect s t := by
  cases m with
  | writeReg r v =>
    cases h
    rcases s.writeReg_cases r v with ⟨rfl, e⟩ | he
    · exact .inr (.inr (.inl ⟨⟨v, rfl⟩, e⟩))
    · exact .inr (.inr (.inr he))
  | readReg r =>
    cases h
    exact .inr (.inr (.inr (.setPort _)))
  | writeIn a b =>
    rw [hostWriteIn_next h]
    exact .inr (.inr (.inr (.storeIn a b)))
  | writeOut a b =>
    rw [hostWriteOut_next h]
    exact .inr (.inr (.inr (.storeOut a b (hostWriteOut_offset h))))
  | readOut a =>
    obtain ⟨p, rfl⟩ := hostReadOut_next h
    exact .inr (.inr (.inr (.setPort p)))
  | reset =>
    cases h
    exact .inr (.inl ⟨rfl, rfl⟩)
  | yield => exact .inl ⟨rfl, h⟩

/-- Settles O45: what is left of the moves writes only the host's fields and the memories. -/
theorem hostMovesLeaveTheDecoderAlone : Obligations.HostMovesLeaveTheDecoderAlone := by
  intro m s t hreset hyield hstart h
  rcases hostMove_cases h with ⟨rfl, _⟩ | ⟨rfl, _⟩ | ⟨⟨v, rfl⟩, _⟩ | he
  · exact absurd rfl hyield
  · exact absurd rfl hreset
  · exact absurd rfl (hstart v)
  · cases he <;> exact ⟨rfl, rfl, rfl, rfl, rfl, rfl, rfl, rfl, rfl, rfl⟩

/-- Outside BUSY the decoder has no step (R27). -/
theorem decoderStep_of_not_busy {s : State} (h : s.busy = false) : decoderStep s = .next s := by
  rw [State.busy] at h
  cases hphase : s.phase with
  | header | pixels => rw [hphase] at h; cases h
  | idle | done | error => rw [decoderStep, hphase]

/-- The inversion of the decoder's turn, by the phase. -/
theorem decoderStep_cases {s t : State} (h : decoderStep s = .next t) :
    (s.phase = .header ∧ t = headerStep s) ∨ (s.phase = .pixels ∧ pixelStep s = .next t) ∨ (s.busy = false ∧ t = s) := by
  by_cases hbusy : s.busy = true
  · rcases (busy_iff s.phase).mp hbusy with hphase | hphase
    · rw [decoderStep_header hphase] at h
      cases h
      exact .inl ⟨hphase, rfl⟩
    · rw [decoderStep_pixels hphase] at h
      exact .inr (.inl ⟨hphase, h⟩)
  · have hrest : s.busy = false := Bool.not_eq_true _ ▸ hbusy
    rw [decoderStep_of_not_busy hrest] at h
    cases h
    exact .inr (.inr ⟨hrest, rfl⟩)

/-- A step is the decoder's, after the host's queue gave way, or another move of the host. -/
theorem step_cases {s t : State} (h : step s = .next t) :
    ∃ p, decoderStep (s.setPort p) = .next t ∨ t = (s.setPort p).hardReset ∨ t = (s.setPort p).start ∨
      HostEffect (s.setPort p) t := by
  cases hp : s.port.pending with
  | nil =>
    rw [step_noMove hp] at h
    exact ⟨s.port, .inl h⟩
  | cons m ms =>
    rw [step_hostMove hp] at h
    refine ⟨{ s.port with pending := ms }, ?_⟩
    rcases hostMove_cases h with ⟨_, h⟩ | ⟨_, h⟩ | ⟨_, h⟩ | h
    · exact .inl h
    · exact .inr (.inl h)
    · exact .inr (.inr (.inl h))
    · exact .inr (.inr (.inr h))

end Sys2Proof.Machine
end

section
/-! SUPPORT. The invariant of the block: reset has it and every step keeps it (spec 10_state.md section 2; 41_pixel_step.md R120). -/

namespace Sys2Proof.Machine

/-- The part of the invariant that speaks of no phase. -/
structure State.Sound (s : State) : Prop where
  inSorted : Memory.wf s.inMem
  outSorted : Memory.wf s.outMem
  outExists : ∀ c ∈ s.outMem, c.1 < s.cfg.outCapacity
  slots : s.SlotsAtHash
  runSmall : s.run.toNat ≤ 61
  cursorBound : s.cur.toNat ≤ s.len.toNat
  positionBound : s.pos.toNat ≤ s.npix

theorem State.Inv.sound {s : State} (h : s.Inv) : s.Sound :=
  ⟨h.inSorted, h.outSorted, h.outExists, h.slots, h.runSmall, h.cursorBound, h.positionBound⟩

/-! ### The invariant, phase by phase -/

section phases
variable {s : State}

theorem State.Sound.inv_raise (h : s.Sound) {k : ErrKind} (hk : k ≠ .noError) : (s.raise k).Inv where
  inSorted := h.inSorted
  outSorted := h.outSorted
  outExists := h.outExists
  slots := h.slots
  runSmall := h.runSmall
  cursorBound := h.cursorBound
  positionBound := h.positionBound
  errExact := ⟨fun he => absurd he hk, fun hp => absurd rfl hp⟩
  idleFresh := nofun
  headerFresh := nofun
  pixelsAdmitted := nofun
  doneComplete := nofun

/-- PIXELS with positions left and DONE with none, of an admitted image. -/
theorem State.Sound.inv_admitted (h : s.Sound) (herr : s.err = .noError) (hadm : s.Admitted)
    (hphase : s.phase = .pixels ∧ s.pos.toNat < s.npix ∨ s.phase = .done ∧ s.pos.toNat = s.npix) : s.Inv where
  inSorted := h.inSorted
  outSorted := h.outSorted
  outExists := h.outExists
  slots := h.slots
  runSmall := h.runSmall
  cursorBound := h.cursorBound
  positionBound := h.positionBound
  errExact := ⟨fun _ => by rcases hphase with ⟨hp, _⟩ | ⟨hp, _⟩ <;> simp [hp], fun _ => herr⟩
  idleFresh hp := by simp [hp] at hphase
  headerFresh hp := by simp [hp] at hphase
  pixelsAdmitted hp := ⟨hadm, by simpa [hp] using hphase⟩
  doneComplete hp := ⟨hadm, by simpa [hp] using hphase⟩

/-- Every slot of the cleared cache is empty (R23). -/
theorem clearedCache_get (k : Fin 64) : (Vector.replicate 64 Pixel.zero).get k = Pixel.zero := by
  rw [Vector.get_eq_getElem, Vector.getElem_replicate]

theorem State.slotsAtHash_of_cleared (h : s.cache = Vector.replicate 64 Pixel.zero) : s.SlotsAtHash :=
  fun k => .inl (h ▸ clearedCache_get k)

/-- IDLE and HEADER, with the datapath as reset and START leave it. -/
theorem State.Fresh.inv (h : s.Fresh) (hphase : s.phase = .idle ∨ s.phase = .header) (herr : s.err = .noError)
    (hin : Memory.wf s.inMem) (hout : Memory.wf s.outMem) (hexists : ∀ c ∈ s.outMem, c.1 < s.cfg.outCapacity) : s.Inv where
  inSorted := hin
  outSorted := hout
  outExists := hexists
  slots := State.slotsAtHash_of_cleared h.cache
  runSmall := by simp [h.run]
  cursorBound := by simp [h.cur]
  positionBound := by simp [h.pos]
  errExact := ⟨fun _ => by rcases hphase with hp | hp <;> simp [hp], fun _ => herr⟩
  idleFresh _ := h
  headerFresh _ := h
  pixelsAdmitted hp := by simp [hp] at hphase
  doneComplete hp := by simp [hp] at hphase

end phases

/-! ### Reset -/

theorem State.resetWith_inv (c : Config) : (State.resetWith c).Inv :=
  State.Fresh.inv ⟨rfl, rfl, rfl, rfl, rfl, rfl⟩ (.inl rfl) rfl .nil .nil nofun

/-- Settles O52: State.reset is one of the states right after reset. -/
theorem invariantHoldsAtReset : Obligations.InvariantHoldsAtReset :=
  ⟨State.resetWith_inv, State.resetWith_inv Config.standard⟩

/-! ### The host's moves -/

section host
variable {s t : State}

theorem State.Inv.hardReset (h : s.Inv) : s.hardReset.Inv :=
  State.Fresh.inv ⟨rfl, rfl, rfl, rfl, rfl, rfl⟩ (.inl rfl) rfl h.inSorted .nil nofun

theorem State.Inv.start (h : s.Inv) : s.start.Inv :=
  State.Fresh.inv ⟨rfl, rfl, rfl, rfl, rfl, rfl⟩ (.inr rfl) rfl h.inSorted h.outSorted h.outExists

/-- The state with the fields a host may write at any time. -/
def State.withHostFields (s : State) (m o : Memory) (v : BitVec 64) (p : HostPort) : State :=
  { s with inMem := m, outMem := o, inLength := v, port := p }

/-- The invariant says of those fields only that the memories are canonical and that OUT's bytes exist. -/
theorem State.Inv.withHostFields (h : s.Inv) {m o : Memory} (v : BitVec 64) (p : HostPort) (hin : Memory.wf m)
    (hout : Memory.wf o) (hexists : ∀ c ∈ o, c.1 < s.cfg.outCapacity) : (s.withHostFields m o v p).Inv where
  inSorted := hin
  outSorted := hout
  outExists := hexists
  slots := h.slots
  runSmall := h.runSmall
  errExact := h.errExact
  cursorBound := h.cursorBound
  positionBound := h.positionBound
  idleFresh hp := let ⟨hpx, hrun, hcache, hcur, hpos, hdesc⟩ := h.idleFresh hp; ⟨hpx, hrun, hcache, hcur, hpos, hdesc⟩
  headerFresh hp := let ⟨hpx, hrun, hcache, hcur, hpos, hdesc⟩ := h.headerFresh hp; ⟨hpx, hrun, hcache, hcur, hpos, hdesc⟩
  pixelsAdmitted hp :=
    let ⟨⟨hc, hsize, hread, hlen, hcur⟩, hpos⟩ := h.pixelsAdmitted hp; ⟨⟨hc, hsize, hread, hlen, hcur⟩, hpos⟩
  doneComplete hp :=
    let ⟨⟨hc, hsize, hread, hlen, hcur⟩, hpos⟩ := h.doneComplete hp; ⟨⟨hc, hsize, hread, hlen, hcur⟩, hpos⟩

theorem State.Inv.setPort (h : s.Inv) (p : HostPort) : (s.setPort p).Inv :=
  h.withHostFields s.inLength p h.inSorted h.outSorted h.outExists

theorem HostEffect.inv (he : HostEffect s t) (h : s.Inv) : t.Inv := by
  cases he with
  | setPort p => exact h.setPort p
  | setInLength v => exact h.withHostFields v s.port h.inSorted h.outSorted h.outExists
  | storeIn a b =>
    exact h.withHostFields s.inLength s.port (Memory.wf_write h.inSorted _ _) h.outSorted h.outExists
  | storeOut a b ha =>
    refine h.withHostFields s.inLength s.port h.inSorted (Memory.wf_write h.outSorted _ _) fun c hc => ?_
    rcases Memory.mem_write hc with rfl | hc
    · exact ha
    · exact h.outExists c hc

end host

/-! ### The decoder's steps -/

section decoder
variable {s t : State}

theorem State.header_le_chunkEnd (s : State) : 14 ≤ s.chunkEnd := by
  simp only [State.chunkEnd]
  split <;> omega

/-- The header step keeps the invariant: its errors leave the cursor at or below the length, and its hand-over is admitted. -/
theorem headerStep_keeps_inv (h : s.Inv) (hphase : s.phase = .header) : (headerStep s).Inv := by
  have hfresh := h.headerFresh hphase
  have hpos : s.pos.toNat = 0 := by simp [hfresh.pos]
  have hnoError := h.noError (by rw [hphase]; nofun)
  rcases headerStep_cases s with ⟨k, d, c, hk, hc, e⟩ | ⟨hlen, hchannels, hsize, e⟩ <;> rw [e]
  · refine State.Sound.inv_raise (s := (s.setDesc d).setCur c)
      ⟨h.inSorted, h.outSorted, h.outExists, h.slots, h.runSmall, ?_, ?_⟩ hk
    · rcases hc with rfl | hc
      · exact h.cursorBound
      · exact hc
    · exact hpos.trans_le (Nat.zero_le _)
  · have hadm : ((headerRead s).setPhase (if (headerRead s).npix = 0 then .done else .pixels)).Admitted :=
      ⟨hchannels, hsize, Nat.le_refl 14, hlen, s.header_le_chunkEnd⟩
    refine State.Sound.inv_admitted ⟨h.inSorted, h.outSorted, h.outExists, h.slots, h.runSmall, hlen, ?_⟩ hnoError hadm ?_
    · exact hpos.trans_le (Nat.zero_le _)
    · rw [State.setPhase_phase, State.setPhase_npix, State.setPhase_pos]
      change _ ∧ s.pos.toNat < _ ∨ _ ∧ s.pos.toNat = _
      rw [hpos]
      split
      next hzero => exact .inr ⟨rfl, hzero.symm⟩
      next hsome => exact .inl ⟨rfl, Nat.pos_of_ne_zero hsome⟩

/-- In PIXELS the position's bytes exist in OUT: the whole image fits (R59, R100). -/
theorem State.Inv.positionFits (h : s.Inv) (hphase : s.phase = .pixels) : s.positionFits = true := by
  obtain ⟨hadm, hpos⟩ := h.pixelsAdmitted hphase
  rw [State.positionFits_iff, State.outBase, ← Nat.succ_mul]
  exact (Nat.mul_le_mul_right _ hpos).trans hadm.sizeFits

/-- In PIXELS the position counter does not wrap. -/
theorem State.Inv.pos_succ (h : s.Inv) (hphase : s.phase = .pixels) : (s.pos + 1#64).toNat = s.pos.toNat + 1 := by
  obtain ⟨_, hpos⟩ := h.pixelsAdmitted hphase
  have hlt := s.npix_lt
  rw [BitVec.toNat_add, BitVec.toNat_ofNat]
  omega

theorem DatapathMove.pos_finish {u : State} (hmove : DatapathMove s u) (h : s.Inv) (hphase : s.phase = .pixels) :
    u.writeOutput.nextPosition.pos.toNat = s.pos.toNat + 1 := by
  rw [State.nextPosition_pos, State.writeOutput_pos, hmove.sameOutside.pos, h.pos_succ hphase]

/-- A finished move keeps the invariant: the image stays admitted, and its last position ends the decode. -/
theorem DatapathMove.inv_finish {u : State} (hmove : DatapathMove s u) (h : s.Inv) (hphase : s.phase = .pixels) :
    u.writeOutput.nextPosition.Inv := by
  obtain ⟨hadm, hpos⟩ := h.pixelsAdmitted hphase
  have hsame := hmove.sameOutside
  have hkept := hsame.kept
  have hchunk : u.chunkEnd = s.chunkEnd := by rw [State.chunkEnd, State.chunkEnd, hsame.cfg, hsame.len]
  have hnpix := State.npix_congr hsame.desc
  obtain ⟨hcurLow, hcurHigh⟩ := hmove.cur_bounds hadm.cursorInRegion
  have hcurLen := hcurHigh.trans (State.chunkEnd_le_len hadm.lengthHeader)
  have hnoError := h.noError (by rw [hphase]; nofun)
  have hposNext := hmove.pos_finish h hphase
  have hadmNext : u.writeOutput.nextPosition.Admitted := by
    refine ⟨?_, ?_, hadm.headerRead.trans hcurLow, ?_, ?_⟩
    · rw [State.ChannelsAdmitted, hkept.desc]
      exact hadm.channels
    · rw [State.nextPosition_npix, State.writeOutput_npix, hnpix, hkept.desc, hkept.cfg]
      exact hadm.sizeFits
    · rw [hkept.len]
      exact hadm.lengthHeader
    · exact hcurHigh.trans_eq hchunk.symm
  refine State.Sound.inv_admitted ⟨?_, ?_, ?_, hmove.slotsAtHash h.slots, hmove.run_le h.runSmall, ?_, ?_⟩
    (hkept.err.trans hnoError) hadmNext ?_
  · rw [hkept.inMem]
    exact h.inSorted
  · rw [State.nextPosition_outMem, State.writeOutput_outMem, hsame.outMem]
    exact Memory.wf_writeAll h.outSorted _ _
  · intro c hc
    rw [State.nextPosition_outMem, State.writeOutput_outMem, hsame.outMem, hsame.outBase, hsame.desc] at hc
    rw [hkept.cfg]
    rcases Memory.mem_writeAll hc with ⟨_, hlt⟩ | hc
    · have hfits := s.positionFits_iff.mp (h.positionFits hphase)
      have hbytes := outBytes_length_le s.desc.channels.toNat u.px
      omega
    · exact h.outExists c hc
  · rw [hkept.len]
    exact hcurLen
  · rw [hposNext, State.nextPosition_npix, State.writeOutput_npix, hnpix]
    exact hpos
  · rw [hsame.phase_finish, hposNext, State.nextPosition_npix, State.writeOutput_npix, hnpix, hphase]
    split
    next hlast => exact .inr ⟨rfl, hlast⟩
    next hmore => exact .inl ⟨rfl, by omega⟩

theorem decoderStep_keeps_inv (h : s.Inv) (ht : decoderStep s = .next t) : t.Inv := by
  rcases decoderStep_cases ht with ⟨hphase, rfl⟩ | ⟨hphase, hstep⟩ | ⟨_, rfl⟩
  · exact headerStep_keeps_inv h hphase
  · rcases pixelStep_move hstep with ⟨_, _, rfl⟩ | ⟨_, u, hmove, rfl⟩
    · exact h.sound.inv_raise nofun
    · exact hmove.inv_finish h hphase
  · exact h

theorem step_keeps_inv (h : s.Inv) (ht : step s = .next t) : t.Inv := by
  obtain ⟨p, hdec | rfl | rfl | he⟩ := step_cases ht
  · exact decoderStep_keeps_inv (h.setPort p) hdec
  · exact (h.setPort p).hardReset
  · exact (h.setPort p).start
  · exact he.inv (h.setPort p)

end decoder

/-- Settles O53: the decoder's steps by phase, the host's by their effect (`step_keeps_inv`). -/
theorem everyStepKeepsTheInvariant : Obligations.EveryStepKeepsTheInvariant := fun _ _ => step_keeps_inv

/-! ### No stop -/

/-- A pixel step at a position that OUT has answers a next state, whatever bytes IN holds (R82). -/
theorem pixelStep_total {s : State} (hpos : s.positionFits = true) : ∃ t, pixelStep s = .next t := by
  rcases pixelStep_cases s with ⟨_, e⟩ | ⟨_, _, e⟩ | ⟨_, _, e⟩ <;> rw [e]
  · exact ⟨_, (State.finishPosition_eq _).trans (if_pos hpos)⟩
  · exact ⟨_, (State.finishPosition_eq _).trans (if_pos hpos)⟩
  · rw [fetchStep]
    split
    next i _ _ =>
      rw [exec_eq, State.finishPosition_eq, effect_positionFits, if_pos hpos]
      split
      · exact ⟨_, rfl⟩
      · exact ⟨_, rfl⟩
    · exact ⟨_, rfl⟩

/-- Settles O54: the header step is total, a pixel step of an admitted image has its position in OUT, and the rest is no step. -/
theorem decoderStepsNeverStop : Obligations.DecoderStepsNeverStop := by
  intro s h hport
  rw [step_noMove hport]
  cases hphase : s.phase with
  | header => exact ⟨_, decoderStep_header hphase⟩
  | pixels =>
    rw [decoderStep_pixels hphase]
    exact pixelStep_total (h.positionFits hphase)
  | idle | done | error => exact ⟨s, decoderStep_of_not_busy (by rw [State.busy, hphase]; rfl)⟩

end Sys2Proof.Machine
end

section
/-! SUPPORT. What a fetch runs, and the paths of the pixel step (spec 41_pixel_step.md R110 to R117; 60_exceptions.md R157). -/

namespace Sys2Proof.Machine

/-! ### The fetch -/

section fetch
variable {s : State}

/-- A fetch of bytes that decode to an opcode is that opcode's meaning (R110, R137). -/
theorem fetchStep_accepted {i : Instr} {rest : List Byte} (h : decode s.fetchBytes = .accepted i rest) :
    fetchStep s = exec i s := by
  rw [fetchStep, h]

/-- Settles O19: at a fetch the step is the fetch and dispatch, which runs the decoded opcode. -/
theorem stepRunsTheDecodedOpcode : Obligations.StepRunsTheDecodedOpcode := by
  intro s i rest hat hdecode
  rw [step_atFetch hat, fetchStep_accepted hdecode]

/-- Where the opcode fits, the fetch reads its tag and its data bytes (R112). -/
theorem State.fetchBytes_fits (h : s.cur.toNat + opLen (s.inByte s.cur.toNat) ≤ s.chunkEnd) :
    s.fetchBytes = (List.range (opLen (s.inByte s.cur.toNat))).map fun k => s.inByte (s.cur.toNat + k) := by
  rw [State.fetchBytes, if_pos ((s.opcodeFits_iff _).mpr h)]

/-- Where IN holds an opcode's encoding at the cursor, inside the chunk region, the fetch reads that encoding. -/
theorem State.fetchBytes_eq_encode {i : Instr} (hwf : i.wf = true) (hfits : s.cur.toNat + i.size ≤ s.chunkEnd)
    (hin : ∀ k b, (encode i)[k]? = some b → s.inByte (s.cur.toNat + k) = b) : s.fetchBytes = encode i := by
  have htag : opLen (s.inByte s.cur.toNat) = i.size := by
    obtain ⟨t, ds, he⟩ := encode_eq_cons i
    have ht : s.inByte s.cur.toNat = t := hin 0 t (by rw [he]; rfl)
    rw [ht, opLen_of_encode hwf he]
  rw [State.fetchBytes_fits (by rwa [htag]), htag]
  refine List.ext_getElem (by simp [encode_length]) fun k _ hk => ?_
  simp [hin k _ (List.getElem?_eq_getElem hk)]

/-- Settles O20: the fetch reads the opcode's encoding, which decodes to the opcode (O1). -/
theorem stepRunsTheOpcodeInInputMemory : Obligations.StepRunsTheOpcodeInInputMemory := by
  intro s i hat hwf hfits hin
  have hdecode : decode s.fetchBytes = .accepted i [] := by
    rw [State.fetchBytes_eq_encode hwf hfits hin]
    simpa using decode_encode [] hwf
  exact stepRunsTheDecodedOpcode s i [] hat hdecode

/-- Where the opcode fits, the fetch runs an opcode of that length. -/
theorem fetchStep_fits (h : s.cur.toNat + opLen (s.inByte s.cur.toNat) ≤ s.chunkEnd) :
    ∃ i : Instr, i.size = opLen (s.inByte s.cur.toNat) ∧ fetchStep s = exec i s := by
  have hpos : 0 < opLen (s.inByte s.cur.toNat) := by
    rw [opLen]
    split_ifs <;> decide
  obtain ⟨n, hn⟩ := Nat.exists_eq_succ_of_ne_zero (Nat.ne_of_gt hpos)
  have hbytes : s.fetchBytes =
      s.inByte s.cur.toNat :: (List.range n).map fun k => s.inByte (s.cur.toNat + (k + 1)) := by
    rw [State.fetchBytes_fits h, hn, List.range_succ_eq_map, List.map_cons, List.map_map]
    rfl
  obtain ⟨i, hdecode, hsize⟩ := decode_consumes_opLen (t := s.inByte s.cur.toNat)
    (ds := (List.range n).map fun k => s.inByte (s.cur.toNat + (k + 1))) (by simp [hn])
  rw [← hbytes] at hdecode
  exact ⟨i, hsize, fetchStep_accepted hdecode⟩

/-- A finished position is not in ERROR, unless the state before it was. -/
theorem State.nextPosition_phase_ne_error (h : s.phase ≠ .error) : s.nextPosition.phase ≠ .error := by
  rw [State.nextPosition_phase]
  split
  · nofun
  · exact h

end fetch

/-- The step of the decoder in PIXELS is the pixel step. -/
theorem State.AtPixelStep.step_eq {s : State} (h : s.AtPixelStep) : step s = pixelStep s := by
  rw [step_noMove h.noMove, decoderStep_pixels h.phase]

/-- The inversion of the decoder's step in PIXELS: a precise error at a fetch, or a move that finishes its position. -/
theorem State.AtPixelStep.step_cases {s t : State} (hat : s.AtPixelStep) (h : step s = .next t) :
    (s.run = 0#6 ∧ s.cur.toNat < s.chunkEnd ∧ t = s.raise .outOfBoundsRead) ∨
    (s.positionFits = true ∧ t.phase ≠ .error ∧ ∃ u, DatapathMove s u ∧ t = u.writeOutput.nextPosition) := by
  rw [hat.step_eq] at h
  rcases pixelStep_move h with hraise | ⟨hpos, u, hmove, rfl⟩
  · exact .inl hraise
  · refine .inr ⟨hpos, State.nextPosition_phase_ne_error ?_, u, hmove, rfl⟩
    rw [State.writeOutput_phase, hmove.sameOutside.phase, hat.phase]
    nofun

/-- Settles O22: a step that ends in ERROR is not one that finishes its position, so the fetch raised; and it does not raise for an
opcode that fits, since that one runs. -/
theorem pixelStepErrorsArePrecise : Obligations.PixelStepErrorsArePrecise := by
  intro s t hat h herror
  rcases hat.step_cases h with ⟨hrun, hcur, ht⟩ | ⟨_, hne, _⟩
  · refine ⟨ht, hrun, hcur, ?_⟩
    by_contra hfits
    have hfits := Nat.le_of_not_lt hfits
    obtain ⟨i, hsize, hexec⟩ := fetchStep_fits hfits
    rw [step_atFetch ⟨hat, hrun, hcur⟩, hexec, exec_eq, if_pos (.inr (by rwa [hsize, State.opcodeFits_iff]))] at h
    obtain ⟨_, rfl⟩ := State.finishPosition_next h
    refine State.nextPosition_phase_ne_error ?_ herror
    rw [State.writeOutput_phase, (effect_sameOutside i s).phase, hat.phase]
    nofun
  · exact absurd herror hne

/-! ### Run repeat and exhausted input -/

/-- Settles O24: a pending run comes before any fetch, and the repeat finishes the position with the pixel before it. -/
theorem runRepeatEmitsThePreviousPixel : Obligations.RunRepeatEmitsThePreviousPixel := by
  intro s hat hrun hpos hc
  have hstep : step s = .next (s.setRun (s.run - 1#6)).writeOutput.nextPosition := by
    rw [hat.step_eq, pixelStep, if_pos hrun, repeatStep, State.finishPosition_eq, State.setRun_positionFits, if_pos hpos]
  refine ⟨_, hstep, ?_, State.replayed_of_finish _ hc⟩
  exact run_sub_one_toNat hrun

/-- Settles O25: with no run pending and the region exhausted the step is the output write alone. -/
theorem exhaustedInputReplaysTheLastPixel : Obligations.ExhaustedInputReplaysTheLastPixel := by
  intro s
  refine ⟨fun h => if_pos h, fun h => if_neg (Nat.not_le.mpr h), fun hat hrun hend hpos hc => ?_⟩
  have hstep : step s = .next s.writeOutput.nextPosition := by
    rw [hat.step_eq, pixelStep, if_neg (not_not.mpr hrun), if_neg (Nat.not_lt.mpr hend), exhaustedStep,
      State.finishPosition_eq, if_pos hpos]
  exact ⟨_, hstep, hrun, State.replayed_of_finish s.run hc⟩

/-! ### What the decoder's steps keep -/

/-- Settles O23: the header step writes no input, and a pixel step raises or keeps what no opcode writes. -/
theorem decoderNeverWritesItsInput : Obligations.DecoderNeverWritesItsInput := by
  intro s t hport h
  rw [step_noMove hport] at h
  rcases decoderStep_cases h with ⟨_, rfl⟩ | ⟨_, hstep⟩ | ⟨_, rfl⟩
  · rcases headerStep_cases s with ⟨k, d, c, _, _, e⟩ | ⟨_, _, _, e⟩ <;> rw [e] <;>
      exact ⟨fun _ => rfl, rfl, rfl, rfl, rfl⟩
  · rcases pixelStep_move hstep with ⟨_, _, rfl⟩ | ⟨_, u, hmove, rfl⟩
    · exact ⟨fun _ => rfl, rfl, rfl, rfl, rfl⟩
    · have hkept := hmove.sameOutside.kept
      exact ⟨hkept.inByte, hkept.len, hkept.inLength, hkept.cfg, hkept.port⟩
  · exact ⟨fun _ => rfl, rfl, rfl, rfl, rfl⟩

theorem decoderStep_slotsAtHash {s t : State} (hs : s.SlotsAtHash) (h : decoderStep s = .next t) : t.SlotsAtHash := by
  rcases decoderStep_cases h with ⟨_, rfl⟩ | ⟨_, hstep⟩ | ⟨_, rfl⟩
  · rcases headerStep_cases s with ⟨k, d, c, _, _, e⟩ | ⟨_, _, _, e⟩ <;> rw [e] <;> exact hs
  · rcases pixelStep_move hstep with ⟨_, _, rfl⟩ | ⟨_, u, hmove, rfl⟩
    · exact hs
    · exact hmove.slotsAtHash hs
  · exact hs

/-- Settles O29: reset and START clear the cache, the host's other moves leave it, and the decoder inserts at the hash. -/
theorem everySlotStaysEmptyOrAtItsHash : Obligations.EverySlotStaysEmptyOrAtItsHash := by
  intro s t hs h
  obtain ⟨p, hdec | rfl | rfl | he⟩ := step_cases h
  · exact decoderStep_slotsAtHash (s := s.setPort p) hs hdec
  · exact State.slotsAtHash_of_cleared rfl
  · exact State.slotsAtHash_of_cleared rfl
  · cases he <;> exact hs

/-- Settles O30: run repeat, the exhausted path and QOI_OP_RUN touch neither px nor the cache, and the other opcodes insert px. -/
theorem currentPixelStaysInTheCache : Obligations.CurrentPixelStaysInTheCache := by
  intro s t hat hs h
  rcases hat.step_cases h with ⟨_, _, rfl⟩ | ⟨_, _, u, hmove, rfl⟩
  · exact hs
  · cases hmove with
    | runRepeat | replay => exact hs
    | opcode => exact effect_currentPixelInCache hs

/-! ### The position of a pixel step -/

/-- Settles O27: only the bytes of the position are written, and the position lies inside the image (R58). -/
theorem outputIsWrittenOncePerPosition : Obligations.OutputIsWrittenOncePerPosition := by
  intro s t hinv hat h
  obtain ⟨_, hpos⟩ := hinv.pixelsAdmitted hat.phase
  have hout : ∀ a, a < s.outBase ∨ s.outBase + s.desc.channels.toNat ≤ a → t.outByte a = s.outByte a := by
    intro a ha
    rcases hat.step_cases h with ⟨_, _, rfl⟩ | ⟨_, _, u, hmove, rfl⟩
    · rfl
    · exact hmove.sameOutside.outByte_finish ha
  refine ⟨fun a ha => hout a (.inl ha), fun a ha => hout a (.inr ?_), Nat.mul_le_mul_right _ hpos⟩
  rwa [State.outBase, ← Nat.succ_mul]

/-- Settles O28: without an error the position was finished, and the phase is DONE exactly when it was the last. -/
theorem lastPositionEndsTheDecode : Obligations.LastPositionEndsTheDecode := by
  intro s t hinv hat h hne
  rcases hat.step_cases h with ⟨_, _, rfl⟩ | ⟨_, _, u, hmove, rfl⟩
  · exact absurd rfl hne
  · have hpos := hmove.pos_finish hinv hat.phase
    refine ⟨hpos, hmove.sameOutside.kept.err.trans (hinv.noError (by rw [hat.phase]; nofun)), ?_⟩
    rw [hpos, hmove.sameOutside.phase_finish, hat.phase]
    by_cases hlast : s.pos.toNat + 1 = s.npix <;> simp [hlast]

end Sys2Proof.Machine
end

section
/-! SUPPORT. Runs of pixel steps: how a decode ends, and the copies that a run tag emits (spec 41_pixel_step.md R111, R118;
70_reset_and_hazards.md R179). -/

namespace Sys2Proof.Machine

/-! ### The end of a decode -/

/-- A pixel step of a state that meets the invariant: it ends in the error at the same position, or advances the position by one and is
DONE exactly at the last. -/
theorem State.Inv.pixelStep_progress {s : State} (h : s.Inv) (hat : s.AtPixelStep) :
    ∃ t, step s = .next t ∧ t.Inv ∧ t.desc = s.desc ∧ t.port = s.port ∧
      (t.phase = .error ∧ t.err = .outOfBoundsRead ∧ t.pos = s.pos ∨
        t.pos.toNat = s.pos.toNat + 1 ∧ t.phase = if t.pos.toNat = s.npix then .done else .pixels) := by
  obtain ⟨t, ht⟩ := decoderStepsNeverStop s h hat.noMove
  refine ⟨t, ht, step_keeps_inv h ht, ?_⟩
  rcases hat.step_cases ht with ⟨_, _, rfl⟩ | ⟨_, _, u, hmove, rfl⟩
  · exact ⟨rfl, rfl, .inl ⟨rfl, rfl, rfl⟩⟩
  · have hsame := hmove.sameOutside
    have hpos := hmove.pos_finish h hat.phase
    refine ⟨hsame.kept.desc, hsame.kept.port, .inr ⟨hpos, ?_⟩⟩
    rw [hsame.phase_finish, hpos, hat.phase]

/-- The two ends of a run of `k` pixel steps from `s`: DONE at the last position, or the error at the position it could not produce. -/
def State.EndsAt (s : State) (k : Nat) (t : State) : Prop :=
  (t.phase = .done ∧ k = s.npix - s.pos.toNat ∧ t.pos.toNat = s.npix) ∨
    (t.phase = .error ∧ t.err = .outOfBoundsRead ∧ k ≤ s.npix - s.pos.toNat ∧ t.pos.toNat + 1 = s.pos.toNat + k)

/-- By induction on the positions that remain: each step ends the decode or leaves one position fewer. -/
theorem State.Inv.pixels_run_ends {n : Nat} {s : State} (h : s.Inv) (hat : s.AtPixelStep) (hn : s.npix - s.pos.toNat = n) :
    ∃ (k : Nat) (t : State), Host.Core.run Sys2Proof.core k s = .next t ∧ t.desc = s.desc ∧ s.EndsAt k t := by
  induction n generalizing s with
  | zero =>
    obtain ⟨_, hlt⟩ := h.pixelsAdmitted hat.phase
    omega
  | succ n ih =>
    obtain ⟨_, hlt⟩ := h.pixelsAdmitted hat.phase
    obtain ⟨t, ht, hinv, hdesc, hport, ⟨hphase, herr, hpos⟩ | ⟨hpos, hphase⟩⟩ := h.pixelStep_progress hat
    · exact ⟨1, t, core_run_succ 0 ht, hdesc, .inr ⟨hphase, herr, by omega, by rw [hpos]⟩⟩
    · have hnpix := State.npix_congr hdesc
      by_cases hlast : t.pos.toNat = s.npix
      · rw [if_pos hlast] at hphase
        exact ⟨1, t, core_run_succ 0 ht, hdesc, .inl ⟨hphase, by omega, hlast⟩⟩
      · rw [if_neg hlast] at hphase
        obtain ⟨k, v, hrun, hdescV, hend⟩ := ih hinv ⟨hphase, by rw [hport, hat.noMove]⟩ (by omega)
        refine ⟨k + 1, v, (core_run_succ k ht).trans hrun, hdescV.trans hdesc, ?_⟩
        rcases hend with ⟨hp, hk, hv⟩ | ⟨hp, he, hk, hv⟩
        · exact .inl ⟨hp, by omega, hv.trans hnpix⟩
        · exact .inr ⟨hp, he, by omega, by omega⟩

/-- Settles O55: by induction on the positions that remain (`State.Inv.pixels_run_ends`). -/
theorem pixelStepsReachDoneOrOutOfBoundsRead : Obligations.PixelStepsReachDoneOrOutOfBoundsRead := by
  intro s h hat
  obtain ⟨k, t, hrun, _, hend⟩ := h.pixels_run_ends hat rfl
  exact ⟨k, t, hrun, hend⟩

/-- Settles O56: one header step, and where it enters PIXELS at most one step for each position (O55). -/
theorem everyDecodeTerminates : Obligations.EveryDecodeTerminates := by
  intro s h hat
  obtain ⟨t, ht, _, _, _, _, _, _, _, _, _, hport, hphase⟩ := headerStepKeepsDatapathAndOutput s hat
  rcases hphase with hpixels | hend
  · have hatT : t.AtPixelStep := ⟨hpixels, by rw [hport, hat.noMove]⟩
    obtain ⟨k, v, hrun, hdesc, hend⟩ := (step_keeps_inv h ht).pixels_run_ends hatT rfl
    have hnpix := State.npix_congr hdesc
    refine ⟨k + 1, v, (core_run_succ k ht).trans hrun, ?_, ?_⟩
    · rcases hend with ⟨hdone, _⟩ | ⟨herror, _⟩
      · exact .inl hdone
      · exact .inr herror
    · rcases hend with ⟨_, hk, _⟩ | ⟨_, _, hk, _⟩ <;> omega
  · exact ⟨1, t, core_run_succ 0 ht, hend, Nat.le_add_right 1 _⟩

/-! ### The copies of a run -/

/-- From `s` to `t`, `n` positions were finished, each with the pixel `s.px`, and the pixel and the cache are as they were. -/
structure State.Copied (s : State) (n : Nat) (t : State) : Prop where
  px : t.px = s.px
  cache : t.cache = s.cache
  desc : t.desc = s.desc
  port : t.port = s.port
  inv : t.Inv
  pos : t.pos.toNat = s.pos.toNat + n
  phase : t.phase = if s.pos.toNat + n = s.npix then .done else .pixels
  bytes : ∀ j c b, j < n → (outBytes s.desc.channels.toNat s.px)[c]? = some b →
    t.outByte ((s.pos.toNat + j) * s.desc.channels.toNat + c) = b

theorem State.Copied.zero {s : State} (h : s.Inv) (hphase : s.phase = .pixels) : s.Copied 0 s where
  px := rfl
  cache := rfl
  desc := rfl
  port := rfl
  inv := h
  pos := rfl
  phase := by
    obtain ⟨_, hlt⟩ := h.pixelsAdmitted hphase
    rw [hphase, Nat.add_zero, if_neg (Nat.ne_of_lt hlt)]
  bytes j _ _ hj := absurd hj (Nat.not_lt_zero j)

/-- While positions remain the next step is a pixel step. -/
theorem State.Copied.atPixelStep {s t : State} {n : Nat} (h : s.Copied n t) (hport : s.port.pending = [])
    (hmore : s.pos.toNat + n < s.npix) : t.AtPixelStep :=
  ⟨by rw [h.phase, if_neg (Nat.ne_of_lt hmore)], by rw [h.port, hport]⟩

/-- A move that keeps the pixel and the cache finishes one more copy; the bytes of the copies before it lie below its position. -/
theorem State.Copied.succ {s t u : State} {n : Nat} (h : s.Copied n t) (hphase : t.phase = .pixels) (hmove : DatapathMove t u)
    (hpx : u.px = t.px) (hcache : u.cache = t.cache) : s.Copied (n + 1) u.writeOutput.nextPosition := by
  have hsame := hmove.sameOutside
  have hbase : t.outBase = (s.pos.toNat + n) * s.desc.channels.toNat := by rw [State.outBase, h.pos, h.desc]
  have hnpix := State.npix_congr h.desc
  refine ⟨hpx.trans h.px, hcache.trans h.cache, hsame.kept.desc.trans h.desc, hsame.kept.port.trans h.port,
    hmove.inv_finish h.inv hphase, ?_, ?_, fun j c b hj hb => ?_⟩
  · rw [hmove.pos_finish h.inv hphase, h.pos, Nat.add_assoc]
  · rw [hsame.phase_finish, hphase, h.pos, hnpix, Nat.add_assoc]
  · rcases Nat.lt_succ_iff_lt_or_eq.mp hj with hj | rfl
    · have hc : c < s.desc.channels.toNat := by
        obtain ⟨hc, _⟩ := List.getElem?_eq_some_iff.mp hb
        exact hc.trans_le (outBytes_length_le _ _)
      have hbelow : (s.pos.toNat + j) * s.desc.channels.toNat + c < t.outBase := by
        rw [hbase]
        calc (s.pos.toNat + j) * s.desc.channels.toNat + c
            < (s.pos.toNat + j + 1) * s.desc.channels.toNat := by rw [Nat.succ_mul]; omega
          _ ≤ (s.pos.toNat + n) * s.desc.channels.toNat := Nat.mul_le_mul_right _ (by omega)
      rw [hsame.outByte_finish (.inl hbelow), h.bytes j c b hj hb]
    · rw [← hbase, ← hsame.outBase, State.nextPosition_outByte]
      refine u.writeOutput_inside ?_
      rw [hsame.desc, h.desc, hpx, h.px]
      exact hb

/-- A run tag of field `f` is fetched as QOI_OP_RUN, whose effect sets the counter and passes the tag's byte. -/
theorem runTag_move {s : State} {f : BitVec 6} (hat : s.AtFetch) (hf : f.toNat ≤ 61)
    (htag : s.inByte s.cur.toNat = 0b11#2 ++ f) :
    DatapathMove s (effect (.run f) s) ∧ step s = exec (.run f) s := by
  have hwf : (Instr.run f).wf = true := decide_eq_true hf
  have hfits : s.cur.toNat + (Instr.run f).size ≤ s.chunkEnd := hat.inRegion
  have hin : ∀ k b, (encode (.run f))[k]? = some b → s.inByte (s.cur.toNat + k) = b := by
    intro k b hk
    cases k with
    | zero =>
      cases hk
      exact htag
    | succ k => cases hk
  refine ⟨.opcode _ [] hat.noRun hat.inRegion ?_ hfits, stepRunsTheOpcodeInInputMemory s _ hat hwf hfits hin⟩
  rw [State.fetchBytes_eq_encode hwf hfits hin]
  exact decode_run hf []

/-- By induction on the copies: the tag's own position first, then a repeat for each count. -/
theorem runTag_copies {s : State} {f : BitVec 6} (h : s.Inv) (hat : s.AtFetch) (hf : f.toNat ≤ 61)
    (htag : s.inByte s.cur.toNat = 0b11#2 ++ f) (k : Nat) (hk : k ≤ f.toNat) (hmore : s.pos.toNat + k < s.npix) :
    ∃ t : State, Host.Core.run Sys2Proof.core (k + 1) s = .next t ∧ s.Copied (k + 1) t ∧ t.cur = s.cur + 1#64 ∧
      t.run.toNat = f.toNat - k := by
  induction k with
  | zero =>
    obtain ⟨hmove, hstep⟩ := runTag_move hat hf htag
    rw [exec_next (.inl rfl) (h.positionFits hat.step.phase)] at hstep
    exact ⟨_, core_run_succ 0 hstep, (State.Copied.zero h hat.step.phase).succ hat.step.phase hmove rfl rfl, rfl, rfl⟩
  | succ k ih =>
    obtain ⟨t, hrun, hcopied, hcur, hcount⟩ := ih (by omega) (by omega)
    have hatT := hcopied.atPixelStep hat.step.noMove hmore
    have hpending : t.run ≠ 0#6 := by
      intro hzero
      rw [hzero, BitVec.toNat_ofNat] at hcount
      omega
    have hstep : step t = .next (t.setRun (t.run - 1#6)).writeOutput.nextPosition := by
      rw [hatT.step_eq, pixelStep, if_pos hpending, repeatStep, State.finishPosition_eq]
      exact if_pos (hcopied.inv.positionFits hatT.phase)
    refine ⟨_, core_run_snoc hrun hstep, hcopied.succ hatT.phase (.runRepeat hpending) rfl rfl, hcur, ?_⟩
    rw [State.nextPosition_run, State.writeOutput_run, State.setRun_run, run_sub_one_toNat hpending, hcount, Nat.sub_sub]

/-- Settles O26: the copies of `runTag_copies`, of which position `j` is one for every `j` up to `k`. -/
theorem runTagEmitsOneMoreCopyThanItsField : Obligations.RunTagEmitsOneMoreCopyThanItsField := by
  intro s f k h hat hf htag hk hmore
  obtain ⟨t, hrun, hcopied, hcur, hcount⟩ := runTag_copies h hat hf htag k hk hmore
  exact ⟨t, hrun, hcopied.px, hcopied.cache, hcur, hcount, hcopied.pos,
    fun j c b hj => hcopied.bytes j c b (Nat.lt_succ_of_le hj)⟩

end Sys2Proof.Machine
end

section
/-! SUPPORT. Alpha and the bytes of a 3-channel position (spec 41_pixel_step.md R117, R121). -/

namespace Sys2Proof

/-- Two pixels with the same red, green and blue. -/
structure Pixel.SameColour (p q : Pixel) : Prop where
  red : q.r = p.r
  green : q.g = p.g
  blue : q.b = p.b

end Sys2Proof

namespace Sys2Proof.Machine

/-- A 3-channel position takes no alpha byte (R117). -/
theorem outBytes_three_of_sameColour {p q : Pixel} (h : p.SameColour q) : outBytes 3 q = outBytes 3 p := by
  rw [outBytes_three, outBytes_three, h.red, h.green, h.blue]

theorem addDeltas_sameColour {p q : Pixel} (h : p.SameColour q) (dr dg db : Int) :
    (addDeltas p dr dg db).SameColour (addDeltas q dr dg db) :=
  ⟨congrArg (addDelta · dr) h.red, congrArg (addDelta · dg) h.green, congrArg (addDelta · db) h.blue⟩

theorem State.SameOutside.symm {s u : State} (h : s.SameOutside u) : u.SameOutside s :=
  ⟨h.pos.symm, h.desc.symm, h.outMem.symm, h.inMem.symm, h.phase.symm, h.err.symm, h.len.symm, h.inLength.symm, h.cfg.symm,
    h.port.symm⟩

theorem State.SameOutside.trans {s u v : State} (h : s.SameOutside u) (h' : u.SameOutside v) : s.SameOutside v :=
  ⟨h'.pos.trans h.pos, h'.desc.trans h.desc, h'.outMem.trans h.outMem, h'.inMem.trans h.inMem, h'.phase.trans h.phase,
    h'.err.trans h.err, h'.len.trans h.len, h'.inLength.trans h.inLength, h'.cfg.trans h.cfg, h'.port.trans h.port⟩

/-- `r'` answers a next state wherever `r` does, and with the same OUT. -/
def SameOut (r r' : StepResult) : Prop := ∀ t, r = .next t → ∃ v, r' = .next v ∧ v.outMem = t.outMem

section colour
variable {s u : State}

/-- Positions of a 3-channel image finished with pixels of the same colour leave the same OUT. -/
theorem State.SameOutside.finish_sameOut (h : s.SameOutside u) (h3 : s.desc.channels = 3#8) (hpx : s.px.SameColour u.px) :
    SameOut s.finishPosition u.finishPosition := by
  intro t ht
  obtain ⟨hpos, rfl⟩ := State.finishPosition_next ht
  rw [State.positionFits_iff, ← h.outBase, ← h.desc, ← h.cfg, ← State.positionFits_iff] at hpos
  refine ⟨_, (State.finishPosition_eq u).trans (if_pos hpos), ?_⟩
  rw [State.nextPosition_outMem, State.nextPosition_outMem, State.writeOutput_outMem, State.writeOutput_outMem, h.outMem,
    h.outBase, h.desc, h3]
  exact congrArg _ (outBytes_three_of_sameColour hpx)

/-- An opcode resolves the same colour from states that differ in alphas alone. -/
theorem effect_sameColour (i : Instr) (hpx : s.px.SameColour u.px)
    (hslots : ∀ k, (s.cache.get k).SameColour (u.cache.get k)) : (effect i s).px.SameColour (effect i u).px := by
  cases i with
  | rgb r g b => exact ⟨rfl, rfl, rfl⟩
  | rgba r g b a => exact ⟨rfl, rfl, rfl⟩
  | index i => exact hslots i.toFin
  | diff dr dg db => exact addDeltas_sameColour hpx _ _ _
  | luma dg drg dbg => exact addDeltas_sameColour hpx _ _ _
  | run f => exact hpx

/-- Opcodes of one length whose effects have the same colour leave the same OUT. -/
theorem exec_sameOut {i j : Instr} (hsize : j.size = i.size) (h : s.SameOutside u) (hcur : u.cur = s.cur)
    (h3 : s.desc.channels = 3#8) (hpx : (effect i s).px.SameColour (effect j u).px) : SameOut (exec i s) (exec j u) := by
  have hfits : u.opcodeFits i.size = s.opcodeFits i.size := by
    rw [State.opcodeFits, State.opcodeFits, State.chunkEnd, State.chunkEnd, hcur, h.cfg, h.len]
  have heffect := ((effect_sameOutside i s).symm.trans h).trans (effect_sameOutside j u)
  rw [exec_eq, exec_eq, hsize, hfits]
  split
  · exact heffect.finish_sameOut (by rw [(effect_sameOutside i s).desc, h3]) hpx
  · intro t ht
    cases ht
    exact ⟨_, rfl, h.outMem⟩

end colour

/-- The state with other alphas: that of px is `x`, and `c` is the cache. -/
def State.withAlphas (s : State) (x : Byte) (c : Vector Pixel 64) : State :=
  { s with px := { s.px with a := x }, cache := c }

section withAlphas
variable {s : State} {x : Byte} {c : Vector Pixel 64}

theorem State.withAlphas_sameOutside : s.SameOutside (s.withAlphas x c) := ⟨rfl, rfl, rfl, rfl, rfl, rfl, rfl, rfl, rfl, rfl⟩

/-- A pixel step takes the same path and finishes its position with the same colour: no path reads an alpha to choose. -/
theorem pixelStep_withAlphas_sameOut (h3 : s.desc.channels = 3#8) (hslots : ∀ k, (s.cache.get k).SameColour (c.get k)) :
    SameOut (pixelStep s) (pixelStep (s.withAlphas x c)) := by
  have hpx : s.px.SameColour (s.withAlphas x c).px := ⟨rfl, rfl, rfl⟩
  rcases pixelStep_cases s with ⟨hrun, e⟩ | ⟨hrun, hend, e⟩ | ⟨hrun, hcur, e⟩
  · have e' : pixelStep (s.withAlphas x c) = ((s.setRun (s.run - 1#6)).withAlphas x c).finishPosition := if_pos hrun
    rw [e, e']
    exact State.withAlphas_sameOutside.finish_sameOut h3 hpx
  · have e' : pixelStep (s.withAlphas x c) = (s.withAlphas x c).finishPosition :=
      (if_neg (not_not.mpr hrun)).trans (if_neg (Nat.not_lt.mpr hend))
    rw [e, e']
    exact State.withAlphas_sameOutside.finish_sameOut h3 hpx
  · have e' : pixelStep (s.withAlphas x c) = fetchStep (s.withAlphas x c) := (if_neg (not_not.mpr hrun)).trans (if_pos hcur)
    have hbytes : (s.withAlphas x c).fetchBytes = s.fetchBytes := rfl
    rw [e, e', fetchStep, fetchStep, hbytes]
    split
    · exact exec_sameOut rfl State.withAlphas_sameOutside rfl h3 (effect_sameColour _ hpx hslots)
    · intro t ht
      cases ht
      exact ⟨_, rfl, rfl⟩

end withAlphas

/-- Settles O18: opcodes and paths resolve the same colour whatever the alphas, and a 3-channel position takes the colour alone. -/
theorem alphaNeverReachesAThreeChannelImage : Obligations.AlphaNeverReachesAThreeChannelImage := by
  intro s u x c h3 hcache hu
  obtain rfl : u = s.withAlphas x c := hu
  have hslots : ∀ k, (s.cache.get k).SameColour (c.get k) := fun k =>
    let ⟨hred, hgreen, hblue⟩ := hcache k
    ⟨hred, hgreen, hblue⟩
  have hpx : s.px.SameColour (s.withAlphas x c).px := ⟨rfl, rfl, rfl⟩
  refine ⟨fun i => ?_, fun r g b a a' => ?_, fun t hat ht => ?_⟩
  · exact exec_sameOut rfl State.withAlphas_sameOutside rfl h3 (effect_sameColour i hpx hslots)
  · exact exec_sameOut rfl State.withAlphas_sameOutside rfl h3 ⟨rfl, rfl, rfl⟩
  · have hat' : (s.withAlphas x c).AtPixelStep := ⟨hat.phase, hat.noMove⟩
    rw [hat.step_eq] at ht
    rw [hat'.step_eq]
    exact pixelStep_withAlphas_sameOut h3 hslots t ht

end Sys2Proof.Machine
end

section
/-! SUPPORT. The status fields, the error entry and rest (spec 10_state.md R27, R31, R32; 60_exceptions.md R150, R156). -/

namespace Sys2Proof.Machine

theorem ErrKind.code_eq_zero_iff (k : ErrKind) : k.code = 0#3 ↔ k = .noError := by cases k <;> decide

theorem Phase.status_eq_three_iff (p : Phase) : p.status = 3#2 ↔ p = .error := by cases p <;> decide

/-- Settles O40: the error entry is two assignments, and ERROR is not BUSY. -/
theorem errorEntryWritesStatusOnly : Obligations.ErrorEntryWritesStatusOnly := by
  refine ⟨fun k s => ⟨rfl, rfl, rfl, fun hport => ?_⟩, rfl, rfl, rfl, rfl, rfl⟩
  rw [step_noMove (s := s.raise k) hport, decoderStep_of_not_busy rfl]

/-- Settles O41: the step is the decoder's, which has none. -/
theorem decoderRestsOutsideADecode : Obligations.DecoderRestsOutsideADecode := by
  intro s hport hbusy
  rw [step_noMove hport, decoderStep_of_not_busy hbusy]

/-- Settles O42: the invariant's clause on STATUS.ERR, read through the codes. -/
theorem errorCodeIsNonZeroExactlyInError : Obligations.ErrorCodeIsNonZeroExactlyInError := by
  intro s h
  rw [State.statusState, Phase.status_eq_three_iff, ne_eq, ErrKind.code_eq_zero_iff, h.errExact, not_not]

/-- Settles O59: the hash is the sum modulo 64, and 64 divides the 256 of an 8-bit sum. -/
theorem hashIsTheSameInEightBits : Obligations.HashIsTheSameInEightBits := by
  intro p
  refine ⟨pixelHash_val p, (pixelHash p).isLt, ?_⟩
  rw [pixelHash_val]
  simp only [BitVec.toNat_add, BitVec.toNat_mul, BitVec.toNat_ofNat]
  omega

end Sys2Proof.Machine
end

section
/-! SUPPORT. The host's accesses (spec 10_state.md section 3; 20_memory.md R50, R51, R61; 70_reset_and_hazards.md R170, R173, R174). -/

namespace Sys2Proof.Machine

/-! ### The control fields -/

/-- Settles O43: the read hands over the field, zero-extended, and touches the host's own fields alone. -/
theorem hostReadsTheControlFields : Obligations.HostReadsTheControlFields := by
  intro s r ms hp
  refine ⟨busy_iff s.phase, _, step_hostMove hp, rfl, rfl, ?_⟩
  change (s.regValue r).toNat = _
  cases r with
  | ctrlStart | inLength | obsPos | obsCursor => rfl
  | statusState =>
    rw [State.regValue, State.statusState]
    cases s.phase <;> rfl
  | statusErr =>
    rw [State.regValue]
    cases s.err <;> rfl
  | descWidth | descHeight | descChannels | descColorspace => exact BitVec.toNat_setWidth_of_le (by decide)

/-- Settles O44: the write is `State.setInLength`, whatever the phase. -/
theorem inLengthWriteLeavesTheLatchedLength : Obligations.InLengthWriteLeavesTheLatchedLength := by
  intro s v ms hp
  exact ⟨_, step_writeReg hp, rfl, rfl, rfl⟩

/-- Settles O58: START keeps of a state only what the two states share. -/
theorem startForgetsTheEarlierDecode : Obligations.StartForgetsTheEarlierDecode := by
  intro s u ms hs hu hcfg hinLength hin hout hport hp
  rw [step_writeReg hp, step_writeReg (hport ▸ hp), State.writeReg_ctrlStart_one (by rwa [State.setPort_busy]),
    State.writeReg_ctrlStart_one (by rwa [State.setPort_busy])]
  simp only [State.start, State.setPort, hcfg, hinLength, hin, hout, hport]

/-! ### Reset -/

/-- Settles O50: the step is `State.hardReset`, whose fields are those of R170. -/
theorem resetRestoresTheResetValues : Obligations.ResetRestoresTheResetValues := by
  intro s ms hp
  exact ⟨_, step_hostMove hp, rfl, rfl, rfl, rfl, rfl, rfl, rfl, rfl, rfl, clearedCache_get, rfl, rfl, rfl, rfl⟩

/-- Settles O51: the fields of `State.resetWith`. -/
theorem resetStateHasTheSpecsValues : Obligations.ResetStateHasTheSpecsValues :=
  fun _ => ⟨rfl, rfl, rfl, rfl, rfl, rfl, rfl, rfl, rfl, rfl, clearedCache_get⟩

/-! ### Reads of OUT -/

section access
variable {s : State} {a : BitVec 64} {b : Byte}

theorem hostReadOut_idle (hbusy : s.busy = false) (ha : a.toNat < s.cfg.outCapacity) :
    hostReadOut a s = .next (s.giveHost ((s.outByte a.toNat).setWidth 64)) := by
  rw [hostReadOut, if_neg (Nat.not_le.mpr ha), if_neg (by simp [hbusy])]

theorem hostReadOut_busy (hbusy : s.busy = true) (ha : a.toNat < s.cfg.outCapacity) :
    hostReadOut a s = .next (s.setPort { s.port with
      returned := (Config.outWhileBusy s.port.busyReads).setWidth 64, busyReads := s.port.busyReads + 1 }) := by
  rw [hostReadOut, if_neg (Nat.not_le.mpr ha), if_pos hbusy]

/-! ### Writes of IN and OUT -/

theorem hostWriteIn_taken (h : s.busy = false ∨ s.len.toNat ≤ a.toNat) : hostWriteIn a b s = .next (s.storeIn a b) := by
  rw [hostWriteIn, if_neg]
  rcases h with h | h <;> simp [h]

theorem hostWriteIn_refused (hbusy : s.busy = true) (ha : a.toNat < s.len.toNat) :
    hostWriteIn a b s = .refused .hostWritesInputWhileBusy := by
  rw [hostWriteIn, if_pos (by simp [hbusy, ha])]

theorem hostWriteOut_taken (hbusy : s.busy = false) (ha : a.toNat < s.cfg.outCapacity) :
    hostWriteOut a b s = .next (s.storeOut a b) := by
  rw [hostWriteOut, if_neg (Nat.not_le.mpr ha), if_neg (by simp [hbusy])]

theorem hostWriteOut_refused (hbusy : s.busy = true) (ha : a.toNat < s.cfg.outCapacity) :
    hostWriteOut a b s = .refused .hostWritesOutputWhileBusy := by
  rw [hostWriteOut, if_neg (Nat.not_le.mpr ha), if_pos hbusy]

theorem State.storeIn_inByte_same : (s.storeIn a b).inByte a.toNat = b := by
  rw [State.inByte, State.storeIn_inMem, Memory.read_write_same, Option.getD_some]

theorem State.storeIn_inByte_other {k : Nat} (h : k ≠ a.toNat) : (s.storeIn a b).inByte k = s.inByte k := by
  rw [State.inByte, State.inByte, State.storeIn_inMem, Memory.read_write_other _ _ h]

theorem State.storeOut_outByte_same : (s.storeOut a b).outByte a.toNat = b := by
  rw [State.outByte, State.storeOut_outMem, Memory.read_write_same, Option.getD_some]

theorem State.storeOut_outByte_other {k : Nat} (h : k ≠ a.toNat) : (s.storeOut a b).outByte k = s.outByte k := by
  rw [State.outByte, State.outByte, State.storeOut_outMem, State.storeOut_port, Memory.read_write_other _ _ h]

end access

/-- Settles O46: the read hands over the byte, zero-extended. -/
theorem hostReadsOutputAfterCompletion : Obligations.HostReadsOutputAfterCompletion := by
  intro s a ms hbusy ha hp
  refine ⟨_, (step_hostMove hp).trans (hostReadOut_idle (by rwa [State.setPort_busy]) ha), ?_, rfl⟩
  exact BitVec.toNat_setWidth_of_le (by decide)

/-- Settles O47: the read hands over a free value and advances the counter that selects the next. -/
theorem hostReadOfOutputWhileBusyCompletes : Obligations.HostReadOfOutputWhileBusyCompletes := by
  intro s a ms hbusy ha hp
  exact ⟨_, (step_hostMove hp).trans (hostReadOut_busy (by rwa [State.setPort_busy]) ha), rfl, rfl, rfl, rfl⟩

/-- Settles O48: both accesses test the offset before anything else. -/
theorem hostAccessOutsideOutputMemoryFaults : Obligations.HostAccessOutsideOutputMemoryFaults :=
  fun _ _ _ ha => ⟨if_pos ha, if_pos ha⟩

/-- Settles O49: the writes refused while BUSY, and the store of one that is taken. -/
theorem hostWritesAreRefusedWhileBusy : Obligations.HostWritesAreRefusedWhileBusy := by
  intro s a b hbusy
  exact ⟨hostWriteIn_refused hbusy,
    fun ha => ⟨_, hostWriteIn_taken (.inr ha), State.storeIn_inByte_same, fun _ => State.storeIn_inByte_other⟩,
    hostWriteOut_refused hbusy⟩

/-- Settles O60: each write that is taken stores one byte of its memory and touches no other. -/
theorem hostWritesStoreOneByte : Obligations.HostWritesStoreOneByte := by
  intro s a b hbusy
  exact ⟨⟨_, hostWriteIn_taken (.inl hbusy), State.storeIn_inByte_same, fun _ => State.storeIn_inByte_other, fun _ => rfl⟩,
    fun ha => ⟨_, hostWriteOut_taken hbusy ha, State.storeOut_outByte_same, fun _ => State.storeOut_outByte_other, fun _ => rfl⟩⟩

end Sys2Proof.Machine
end
